-- ==== Sys2Proof/Word.lean ====
section
/-! DEFINITION. The two word types of the machine (R8 of 00_scope.md): an 8-bit byte, which is every
register but PC and every bus datum, and the 16-bit address and program counter. -/

namespace Sys2Proof

/-- A byte: A, X, Y, S, every bus datum (R8). -/
abbrev Byte := BitVec 8

/-- A 16-bit address, and the program counter (R8). -/
abbrev Word := BitVec 16

end Sys2Proof
end

