-- ==== Sys2Proof/Syntax.lean ====
section
/-! DEFINITION. The instruction set as syntax (30_encoding.md): the operand forms of R162 and one
constructor of `Instr` for each mnemonic of spec/opcode_table.json, its operand form an argument, so that
each of the 256 rows is one constructor at one form. An operand holds the bytes the instruction encodes
(`b1`, or `b2:b1`), not a value of the machine. Which forms a mnemonic has is WellFormed.lean's. -/

namespace Sys2Proof

/-- The forms that name a byte of memory (R162): the operand byte of the zero-page forms, the
little-endian operand word of the absolute forms. -/
inductive Mem where
  | zp   (b : Byte)   -- $nn
  | zpX  (b : Byte)   -- $nn,X
  | zpY  (b : Byte)   -- $nn,Y
  | abs  (w : Word)   -- $nnnn
  | absX (w : Word)   -- $nnnn,X
  | absY (w : Word)   -- $nnnn,Y
  | indX (b : Byte)   -- ($nn,X)
  | indY (b : Byte)   -- ($nn),Y
deriving DecidableEq, Repr

/-- The source of an instruction that reads a datum: the immediate byte itself, or a byte of memory. -/
inductive Src where
  | imm (v : Byte)
  | mem (m : Mem)
deriving DecidableEq, Repr

/-- What a shift or rotate works on: the accumulator (`OP A`), or a byte of memory. -/
inductive Dst where
  | acc
  | mem (m : Mem)
deriving DecidableEq, Repr

/-- The operand of a NOP (R317, R342): none, an ignored immediate, or a byte of memory that is read. -/
inductive NopArg where
  | implied
  | imm (v : Byte)
  | mem (m : Mem)
deriving DecidableEq, Repr

/-- The operand of JMP (R290): the target itself, or the address of the pointer to it. -/
inductive JumpTo where
  | abs (w : Word)
  | ind (w : Word)
deriving DecidableEq, Repr

/-- The `mode` column of spec/opcode_table.json (R162). -/
inductive Mode where
  | imp | acc | imm | zp | zpx | zpy | abs | abx | aby | ind | izx | izy | rel
deriving DecidableEq, Repr

/-- The instructions, file by file of spec/ (40 to 46). `jam`, `nop` and `anc` carry their opcode byte,
because several opcodes have the same mnemonic and form. -/
inductive Instr where
  -- 40_load_store_transfer.md
  | lda (o : Src) | ldx (o : Src) | ldy (o : Src)
  | sta (m : Mem) | stx (m : Mem) | sty (m : Mem)
  | tax | tay | txa | tya | tsx | txs
  -- 41_stack.md
  | pha | php | pla | plp
  -- 42_arithmetic.md
  | adc (o : Src) | sbc (o : Src)
  | cmp (o : Src) | cpx (o : Src) | cpy (o : Src)
  | inc (m : Mem) | dec (m : Mem)
  | inx | iny | dex | dey
  -- 43_logic_shift.md
  | and (o : Src) | ora (o : Src) | eor (o : Src)
  | bit (m : Mem)
  | asl (d : Dst) | lsr (d : Dst) | rol (d : Dst) | ror (d : Dst)
  -- 44_control.md
  | jmp (j : JumpTo)
  | jsr (w : Word)
  | rts | rti | brk
  | bpl (off : Byte) | bmi (off : Byte) | bvc (off : Byte) | bvs (off : Byte)
  | bcc (off : Byte) | bcs (off : Byte) | bne (off : Byte) | beq (off : Byte)
  -- 45_flags_nop.md
  | clc | sec | cli | sei | cld | sed | clv
  | nop (op : Byte) (n : NopArg)
  -- 46_undocumented.md
  | slo (m : Mem) | rla (m : Mem) | sre (m : Mem) | rra (m : Mem) | dcp (m : Mem) | isc (m : Mem)
  | sax (m : Mem)
  | lax (m : Mem)
  | lxa (v : Byte)
  | anc (op : Byte) (v : Byte)
  | alr (v : Byte) | arr (v : Byte)
  | ane (v : Byte)
  | sbx (v : Byte) | usbc (v : Byte)
  | jam (op : Byte)
  | sha (m : Mem) | shx (m : Mem) | shy (m : Mem) | tas (m : Mem)
  | las (m : Mem)
deriving DecidableEq, Repr

end Sys2Proof
end

