-- ==== Sys2Proof/WellFormed.lean ====
section
/-! DEFINITION. Which operand forms each mnemonic has: the Encoding lists of the rules of files 40 to 46
(R201 to R343), as one Bool. Every word decodes to a well-formed instruction; the encoder encodes exactly
the well-formed ones. -/

namespace Sys2Proof

/-- The table's mode of a memory form. -/
def Mem.mode : Mem → Mode
  | .zp _ => .zp
  | .zpX _ => .zpx
  | .zpY _ => .zpy
  | .abs _ => .abs
  | .absX _ => .abx
  | .absY _ => .aby
  | .indX _ => .izx
  | .indY _ => .izy

/-- The table's mode of a source. -/
def Src.mode : Src → Mode
  | .imm _ => .imm
  | .mem m => m.mode

/-- The table's mode of a shift's operand. -/
def Dst.mode : Dst → Mode
  | .acc => .acc
  | .mem m => m.mode

/-- The table's mode of a NOP's operand. -/
def NopArg.mode : NopArg → Mode
  | .implied => .imp
  | .imm _ => .imm
  | .mem m => m.mode

/-- The seven memory forms of the ALU group (R204, R240). -/
def Mode.aluMem : List Mode := [.zp, .zpx, .abs, .abx, .aby, .izx, .izy]

/-- The eight forms of the ALU group's reads (R201, R240, R270). -/
def Mode.alu : List Mode := .imm :: Mode.aluMem

/-- The forms of the memory increments (R247) and of a shift on memory (R274). -/
def Mode.shiftMem : List Mode := [.zp, .zpx, .abs, .abx]

/-- The twelve JAM opcodes (R186, R333). -/
def jamOpcodes : List Byte :=
  [0x02, 0x12, 0x22, 0x32, 0x42, 0x52, 0x62, 0x72, 0x92, 0xB2, 0xD2, 0xF2]

/-- The two ANC opcodes (R330). -/
def ancOpcodes : List Byte := [0x0B, 0x2B]

/-- The NOP opcodes of a mode (R317: $EA; R342: the 27 undocumented ones). -/
def nopOpcodes : Mode → List Byte
  | .imp => [0x1A, 0x3A, 0x5A, 0x7A, 0xDA, 0xEA, 0xFA]
  | .imm => [0x80, 0x82, 0x89, 0xC2, 0xE2]
  | .zp => [0x04, 0x44, 0x64]
  | .zpx => [0x14, 0x34, 0x54, 0x74, 0xD4, 0xF4]
  | .abs => [0x0C]
  | .abx => [0x1C, 0x3C, 0x5C, 0x7C, 0xDC, 0xFC]
  | .acc | .zpy | .aby | .ind | .izx | .izy | .rel => []

/-- The mnemonic has the form its operand shows. -/
def Instr.wf : Instr → Bool
  | .lda o | .adc o | .sbc o | .cmp o | .and o | .ora o | .eor o => Mode.alu.contains o.mode
  | .sta m => Mode.aluMem.contains m.mode
  | .ldx o => [Mode.imm, .zp, .zpy, .abs, .aby].contains o.mode
  | .ldy o => [Mode.imm, .zp, .zpx, .abs, .abx].contains o.mode
  | .cpx o | .cpy o => [Mode.imm, .zp, .abs].contains o.mode
  | .stx m => [Mode.zp, .zpy, .abs].contains m.mode
  | .sty m => [Mode.zp, .zpx, .abs].contains m.mode
  | .bit m => [Mode.zp, .abs].contains m.mode
  | .inc m | .dec m => Mode.shiftMem.contains m.mode
  | .asl d | .lsr d | .rol d | .ror d => (Mode.acc :: Mode.shiftMem).contains d.mode
  | .slo m | .rla m | .sre m | .rra m | .dcp m | .isc m => Mode.aluMem.contains m.mode
  | .sax m => [Mode.zp, .zpy, .abs, .izx].contains m.mode
  | .lax m => [Mode.zp, .zpy, .abs, .aby, .izx, .izy].contains m.mode
  | .sha m => [Mode.aby, .izy].contains m.mode
  | .shx m | .tas m | .las m => m.mode == .aby
  | .shy m => m.mode == .abx
  | .jam op => jamOpcodes.contains op
  | .anc op _ => ancOpcodes.contains op
  | .nop op n => (nopOpcodes n.mode).contains op
  | .jmp _ | .jsr _ | .rts | .rti | .brk => true
  | .bpl _ | .bmi _ | .bvc _ | .bvs _ | .bcc _ | .bcs _ | .bne _ | .beq _ => true
  | .clc | .sec | .cli | .sei | .cld | .sed | .clv => true
  | .tax | .tay | .txa | .tya | .tsx | .txs | .pha | .php | .pla | .plp => true
  | .inx | .iny | .dex | .dey => true
  | .lxa _ | .alr _ | .arr _ | .ane _ | .sbx _ | .usbc _ => true

/-- The instruction is one the opcode table has. -/
abbrev Instr.WellFormed (i : Instr) : Prop := i.wf = true

end Sys2Proof
end

