-- ==== Sys2Proof/Decode.lean ====
section
/-! DEFINITION. Decoding (R160, R161, R189 of 30_encoding.md), total on any bytes: every opcode is an
instruction (R191) and the only bytes refused are too few of them, by name. After it the encoder, written
from the Encoding lists of the rules of files 40 to 46, which the spec gives beside the map of R189. -/

namespace Sys2Proof

/-- The 77 mnemonics of spec/opcode_table.json. -/
inductive Mnem where
  | lda | ldx | ldy | sta | stx | sty | tax | tay | txa | tya | tsx | txs
  | pha | php | pla | plp | adc | sbc | cmp | cpx | cpy | inc | dec | inx
  | iny | dex | dey | and | ora | eor | bit | asl | lsr | rol | ror | jmp
  | jsr | rts | rti | brk | bpl | bmi | bvc | bvs | bcc | bcs | bne | beq
  | clc | sec | cli | sei | cld | sed | clv | nop | slo | rla | sre | rra
  | dcp | isc | sax | lax | lxa | anc | alr | arr | ane | sbx | usbc | jam
  | sha | shx | shy | tas | las
deriving DecidableEq, Repr

/-- `b2:b1` (R11, R121): a two-byte operand, low byte first in memory. -/
def operandWord (b1 b2 : Byte) : Word := b2 ++ b1

/-- The low byte of an operand word, its first byte in memory (R121). -/
def operandLo (w : Word) : Byte := w.extractLsb' 0 8

/-- The high byte of an operand word, its second byte in memory (R121). -/
def operandHi (w : Word) : Byte := w.extractLsb' 8 8

/-- R189, row 0_. -/
def opcodeRow0 : List (Mnem × Mode) := [
  (.brk, .imp), (.ora, .izx), (.jam, .imp), (.slo, .izx),
  (.nop, .zp), (.ora, .zp), (.asl, .zp), (.slo, .zp),
  (.php, .imp), (.ora, .imm), (.asl, .acc), (.anc, .imm),
  (.nop, .abs), (.ora, .abs), (.asl, .abs), (.slo, .abs)]

/-- R189, row 1_. -/
def opcodeRow1 : List (Mnem × Mode) := [
  (.bpl, .rel), (.ora, .izy), (.jam, .imp), (.slo, .izy),
  (.nop, .zpx), (.ora, .zpx), (.asl, .zpx), (.slo, .zpx),
  (.clc, .imp), (.ora, .aby), (.nop, .imp), (.slo, .aby),
  (.nop, .abx), (.ora, .abx), (.asl, .abx), (.slo, .abx)]

/-- R189, row 2_. -/
def opcodeRow2 : List (Mnem × Mode) := [
  (.jsr, .abs), (.and, .izx), (.jam, .imp), (.rla, .izx),
  (.bit, .zp), (.and, .zp), (.rol, .zp), (.rla, .zp),
  (.plp, .imp), (.and, .imm), (.rol, .acc), (.anc, .imm),
  (.bit, .abs), (.and, .abs), (.rol, .abs), (.rla, .abs)]

/-- R189, row 3_. -/
def opcodeRow3 : List (Mnem × Mode) := [
  (.bmi, .rel), (.and, .izy), (.jam, .imp), (.rla, .izy),
  (.nop, .zpx), (.and, .zpx), (.rol, .zpx), (.rla, .zpx),
  (.sec, .imp), (.and, .aby), (.nop, .imp), (.rla, .aby),
  (.nop, .abx), (.and, .abx), (.rol, .abx), (.rla, .abx)]

/-- R189, row 4_. -/
def opcodeRow4 : List (Mnem × Mode) := [
  (.rti, .imp), (.eor, .izx), (.jam, .imp), (.sre, .izx),
  (.nop, .zp), (.eor, .zp), (.lsr, .zp), (.sre, .zp),
  (.pha, .imp), (.eor, .imm), (.lsr, .acc), (.alr, .imm),
  (.jmp, .abs), (.eor, .abs), (.lsr, .abs), (.sre, .abs)]

/-- R189, row 5_. -/
def opcodeRow5 : List (Mnem × Mode) := [
  (.bvc, .rel), (.eor, .izy), (.jam, .imp), (.sre, .izy),
  (.nop, .zpx), (.eor, .zpx), (.lsr, .zpx), (.sre, .zpx),
  (.cli, .imp), (.eor, .aby), (.nop, .imp), (.sre, .aby),
  (.nop, .abx), (.eor, .abx), (.lsr, .abx), (.sre, .abx)]

/-- R189, row 6_. -/
def opcodeRow6 : List (Mnem × Mode) := [
  (.rts, .imp), (.adc, .izx), (.jam, .imp), (.rra, .izx),
  (.nop, .zp), (.adc, .zp), (.ror, .zp), (.rra, .zp),
  (.pla, .imp), (.adc, .imm), (.ror, .acc), (.arr, .imm),
  (.jmp, .ind), (.adc, .abs), (.ror, .abs), (.rra, .abs)]

/-- R189, row 7_. -/
def opcodeRow7 : List (Mnem × Mode) := [
  (.bvs, .rel), (.adc, .izy), (.jam, .imp), (.rra, .izy),
  (.nop, .zpx), (.adc, .zpx), (.ror, .zpx), (.rra, .zpx),
  (.sei, .imp), (.adc, .aby), (.nop, .imp), (.rra, .aby),
  (.nop, .abx), (.adc, .abx), (.ror, .abx), (.rra, .abx)]

/-- R189, row 8_. -/
def opcodeRow8 : List (Mnem × Mode) := [
  (.nop, .imm), (.sta, .izx), (.nop, .imm), (.sax, .izx),
  (.sty, .zp), (.sta, .zp), (.stx, .zp), (.sax, .zp),
  (.dey, .imp), (.nop, .imm), (.txa, .imp), (.ane, .imm),
  (.sty, .abs), (.sta, .abs), (.stx, .abs), (.sax, .abs)]

/-- R189, row 9_. -/
def opcodeRow9 : List (Mnem × Mode) := [
  (.bcc, .rel), (.sta, .izy), (.jam, .imp), (.sha, .izy),
  (.sty, .zpx), (.sta, .zpx), (.stx, .zpy), (.sax, .zpy),
  (.tya, .imp), (.sta, .aby), (.txs, .imp), (.tas, .aby),
  (.shy, .abx), (.sta, .abx), (.shx, .aby), (.sha, .aby)]

/-- R189, row A_. -/
def opcodeRowA : List (Mnem × Mode) := [
  (.ldy, .imm), (.lda, .izx), (.ldx, .imm), (.lax, .izx),
  (.ldy, .zp), (.lda, .zp), (.ldx, .zp), (.lax, .zp),
  (.tay, .imp), (.lda, .imm), (.tax, .imp), (.lxa, .imm),
  (.ldy, .abs), (.lda, .abs), (.ldx, .abs), (.lax, .abs)]

/-- R189, row B_. -/
def opcodeRowB : List (Mnem × Mode) := [
  (.bcs, .rel), (.lda, .izy), (.jam, .imp), (.lax, .izy),
  (.ldy, .zpx), (.lda, .zpx), (.ldx, .zpy), (.lax, .zpy),
  (.clv, .imp), (.lda, .aby), (.tsx, .imp), (.las, .aby),
  (.ldy, .abx), (.lda, .abx), (.ldx, .aby), (.lax, .aby)]

/-- R189, row C_. -/
def opcodeRowC : List (Mnem × Mode) := [
  (.cpy, .imm), (.cmp, .izx), (.nop, .imm), (.dcp, .izx),
  (.cpy, .zp), (.cmp, .zp), (.dec, .zp), (.dcp, .zp),
  (.iny, .imp), (.cmp, .imm), (.dex, .imp), (.sbx, .imm),
  (.cpy, .abs), (.cmp, .abs), (.dec, .abs), (.dcp, .abs)]

/-- R189, row D_. -/
def opcodeRowD : List (Mnem × Mode) := [
  (.bne, .rel), (.cmp, .izy), (.jam, .imp), (.dcp, .izy),
  (.nop, .zpx), (.cmp, .zpx), (.dec, .zpx), (.dcp, .zpx),
  (.cld, .imp), (.cmp, .aby), (.nop, .imp), (.dcp, .aby),
  (.nop, .abx), (.cmp, .abx), (.dec, .abx), (.dcp, .abx)]

/-- R189, row E_. -/
def opcodeRowE : List (Mnem × Mode) := [
  (.cpx, .imm), (.sbc, .izx), (.nop, .imm), (.isc, .izx),
  (.cpx, .zp), (.sbc, .zp), (.inc, .zp), (.isc, .zp),
  (.inx, .imp), (.sbc, .imm), (.nop, .imp), (.usbc, .imm),
  (.cpx, .abs), (.sbc, .abs), (.inc, .abs), (.isc, .abs)]

/-- R189, row F_. -/
def opcodeRowF : List (Mnem × Mode) := [
  (.beq, .rel), (.sbc, .izy), (.jam, .imp), (.isc, .izy),
  (.nop, .zpx), (.sbc, .zpx), (.inc, .zpx), (.isc, .zpx),
  (.sed, .imp), (.sbc, .aby), (.nop, .imp), (.isc, .aby),
  (.nop, .abx), (.sbc, .abx), (.inc, .abx), (.isc, .abx)]

/-- The opcode map of R189, 256 entries: mnemonic and mode by opcode value. -/
def opcodeMap : List (Mnem × Mode) :=
  opcodeRow0 ++ opcodeRow1 ++ opcodeRow2 ++ opcodeRow3 ++ opcodeRow4 ++ opcodeRow5 ++ opcodeRow6 ++ opcodeRow7
    ++ opcodeRow8 ++ opcodeRow9 ++ opcodeRowA ++ opcodeRowB ++ opcodeRowC ++ opcodeRowD ++ opcodeRowE ++ opcodeRowF

/-- The row of R189 of an opcode. The map has 256 entries, so the default is never taken. -/
def rowOf (op : Byte) : Mnem × Mode := opcodeMap.getD op.toNat (.jam, .imp)

/-- `LEN(mode)` of R161. -/
def Mode.length : Mode → Nat
  | .imp | .acc => 1
  | .imm | .zp | .zpx | .zpy | .izx | .izy | .rel => 2
  | .abs | .abx | .aby | .ind => 3

/-- The memory operand of a mode (R162). The modes that name no memory do not occur with one. -/
def memOf (md : Mode) (b1 b2 : Byte) : Mem :=
  match md with
  | .zpx => .zpX b1
  | .zpy => .zpY b1
  | .abs | .ind => .abs (operandWord b1 b2)
  | .abx => .absX (operandWord b1 b2)
  | .aby => .absY (operandWord b1 b2)
  | .izx => .indX b1
  | .izy => .indY b1
  | .zp | .imp | .acc | .imm | .rel => .zp b1

/-- The source of a mode (R162). -/
def srcOf (md : Mode) (b1 b2 : Byte) : Src :=
  if md = .imm then .imm b1 else .mem (memOf md b1 b2)

/-- The operand of a shift (R162). -/
def dstOf (md : Mode) (b1 b2 : Byte) : Dst :=
  if md = .acc then .acc else .mem (memOf md b1 b2)

/-- The operand of a NOP (R162). -/
def nopOf (md : Mode) (b1 b2 : Byte) : NopArg :=
  if md = .imp then .implied else if md = .imm then .imm b1 else .mem (memOf md b1 b2)

/-- The operand of JMP (R290). -/
def jumpOf (md : Mode) (b1 b2 : Byte) : JumpTo :=
  if md = .ind then .ind (operandWord b1 b2) else .abs (operandWord b1 b2)

/-- The instruction of a mnemonic, its mode, its opcode byte and its operand bytes. -/
def buildInstr (mn : Mnem) (md : Mode) (op b1 b2 : Byte) : Instr :=
  match mn with
  | .lda => .lda (srcOf md b1 b2)
  | .ldx => .ldx (srcOf md b1 b2)
  | .ldy => .ldy (srcOf md b1 b2)
  | .sta => .sta (memOf md b1 b2)
  | .stx => .stx (memOf md b1 b2)
  | .sty => .sty (memOf md b1 b2)
  | .tax => .tax
  | .tay => .tay
  | .txa => .txa
  | .tya => .tya
  | .tsx => .tsx
  | .txs => .txs
  | .pha => .pha
  | .php => .php
  | .pla => .pla
  | .plp => .plp
  | .adc => .adc (srcOf md b1 b2)
  | .sbc => .sbc (srcOf md b1 b2)
  | .cmp => .cmp (srcOf md b1 b2)
  | .cpx => .cpx (srcOf md b1 b2)
  | .cpy => .cpy (srcOf md b1 b2)
  | .inc => .inc (memOf md b1 b2)
  | .dec => .dec (memOf md b1 b2)
  | .inx => .inx
  | .iny => .iny
  | .dex => .dex
  | .dey => .dey
  | .and => .and (srcOf md b1 b2)
  | .ora => .ora (srcOf md b1 b2)
  | .eor => .eor (srcOf md b1 b2)
  | .bit => .bit (memOf md b1 b2)
  | .asl => .asl (dstOf md b1 b2)
  | .lsr => .lsr (dstOf md b1 b2)
  | .rol => .rol (dstOf md b1 b2)
  | .ror => .ror (dstOf md b1 b2)
  | .jmp => .jmp (jumpOf md b1 b2)
  | .jsr => .jsr (operandWord b1 b2)
  | .rts => .rts
  | .rti => .rti
  | .brk => .brk
  | .bpl => .bpl b1
  | .bmi => .bmi b1
  | .bvc => .bvc b1
  | .bvs => .bvs b1
  | .bcc => .bcc b1
  | .bcs => .bcs b1
  | .bne => .bne b1
  | .beq => .beq b1
  | .clc => .clc
  | .sec => .sec
  | .cli => .cli
  | .sei => .sei
  | .cld => .cld
  | .sed => .sed
  | .clv => .clv
  | .nop => .nop op (nopOf md b1 b2)
  | .slo => .slo (memOf md b1 b2)
  | .rla => .rla (memOf md b1 b2)
  | .sre => .sre (memOf md b1 b2)
  | .rra => .rra (memOf md b1 b2)
  | .dcp => .dcp (memOf md b1 b2)
  | .isc => .isc (memOf md b1 b2)
  | .sax => .sax (memOf md b1 b2)
  | .lax => .lax (memOf md b1 b2)
  | .lxa => .lxa b1
  | .anc => .anc op b1
  | .alr => .alr b1
  | .arr => .arr b1
  | .ane => .ane b1
  | .sbx => .sbx b1
  | .usbc => .usbc b1
  | .jam => .jam op
  | .sha => .sha (memOf md b1 b2)
  | .shx => .shx (memOf md b1 b2)
  | .shy => .shy (memOf md b1 b2)
  | .tas => .tas (memOf md b1 b2)
  | .las => .las (memOf md b1 b2)

/-- The instruction an opcode and its operand bytes are (R170: T1 decodes by the opcode's row). Operand
bytes the format does not have are ignored. -/
def instrOf (op b1 b2 : Byte) : Instr := buildInstr (rowOf op).1 (rowOf op).2 op b1 b2

/-- The length of the instruction an opcode begins (R161, R193). -/
def lengthOf (op : Byte) : Nat := (rowOf op).2.length

/-- Why bytes are refused. No opcode is illegal (R191): only the end of the bytes is. -/
inductive DecodeError where
  | noOpcode    -- there is no byte to decode
  | truncated   -- the opcode's format has operand bytes that are not there
deriving DecidableEq, Repr

/-- What decoding answers: an instruction and the bytes after it, or a refusal by name. -/
inductive Decoded where
  | instr (i : Instr) (rest : List Byte)
  | reject (e : DecodeError)
deriving DecidableEq, Repr

/-- Decode the instruction that begins a list of bytes (R160, R161, R189). -/
def decode : List Byte → Decoded
  | [] => .reject .noOpcode
  | op :: rest =>
    match lengthOf op, rest with
    | 1, rest => .instr (instrOf op 0 0) rest
    | 2, b1 :: rest => .instr (instrOf op b1 0) rest
    | 3, b1 :: b2 :: rest => .instr (instrOf op b1 b2) rest
    | _, _ => .reject .truncated

/-- The bytes of a word numbered as spec/opcode_table.json numbers them: byte 0 is bits 7..0. -/
def bytesOfWord (nbits w : Nat) : List Byte :=
  let v := w % 2 ^ nbits
  [BitVec.ofNat 8 v, BitVec.ofNat 8 (v / 256), BitVec.ofNat 8 (v / 65536)]

/-- The instruction the decoder reads from a word numbered as the table numbers it. -/
def decodeTableWord (nbits w : Nat) : Option Instr :=
  match decode (bytesOfWord nbits w) with
  | .instr i _ => some i
  | .reject _ => none

/-- The opcode an Encoding list gives a mode. -/
def opcodeAt : List (Mode × Byte) → Mode → Option Byte
  | [], _ => none
  | (md, op) :: rest, m => if md = m then some op else opcodeAt rest m

/-- The opcode byte of an instruction: the Encoding list of its rule (R201 to R343). -/
def Instr.opcode? : Instr → Option Byte
  | .lda o => opcodeAt [(.imm, 0xA9), (.zp, 0xA5), (.zpx, 0xB5), (.abs, 0xAD),
      (.abx, 0xBD), (.aby, 0xB9), (.izx, 0xA1), (.izy, 0xB1)] o.mode
  | .ldx o => opcodeAt [(.imm, 0xA2), (.zp, 0xA6), (.zpy, 0xB6), (.abs, 0xAE), (.aby, 0xBE)] o.mode
  | .ldy o => opcodeAt [(.imm, 0xA0), (.zp, 0xA4), (.zpx, 0xB4), (.abs, 0xAC), (.abx, 0xBC)] o.mode
  | .sta m => opcodeAt [(.zp, 0x85), (.zpx, 0x95), (.abs, 0x8D), (.abx, 0x9D),
      (.aby, 0x99), (.izx, 0x81), (.izy, 0x91)] m.mode
  | .stx m => opcodeAt [(.zp, 0x86), (.zpy, 0x96), (.abs, 0x8E)] m.mode
  | .sty m => opcodeAt [(.zp, 0x84), (.zpx, 0x94), (.abs, 0x8C)] m.mode
  | .tax => some 0xAA
  | .tay => some 0xA8
  | .txa => some 0x8A
  | .tya => some 0x98
  | .tsx => some 0xBA
  | .txs => some 0x9A
  | .pha => some 0x48
  | .php => some 0x08
  | .pla => some 0x68
  | .plp => some 0x28
  | .adc o => opcodeAt [(.imm, 0x69), (.zp, 0x65), (.zpx, 0x75), (.abs, 0x6D),
      (.abx, 0x7D), (.aby, 0x79), (.izx, 0x61), (.izy, 0x71)] o.mode
  | .sbc o => opcodeAt [(.imm, 0xE9), (.zp, 0xE5), (.zpx, 0xF5), (.abs, 0xED),
      (.abx, 0xFD), (.aby, 0xF9), (.izx, 0xE1), (.izy, 0xF1)] o.mode
  | .cmp o => opcodeAt [(.imm, 0xC9), (.zp, 0xC5), (.zpx, 0xD5), (.abs, 0xCD),
      (.abx, 0xDD), (.aby, 0xD9), (.izx, 0xC1), (.izy, 0xD1)] o.mode
  | .cpx o => opcodeAt [(.imm, 0xE0), (.zp, 0xE4), (.abs, 0xEC)] o.mode
  | .cpy o => opcodeAt [(.imm, 0xC0), (.zp, 0xC4), (.abs, 0xCC)] o.mode
  | .inc m => opcodeAt [(.zp, 0xE6), (.zpx, 0xF6), (.abs, 0xEE), (.abx, 0xFE)] m.mode
  | .dec m => opcodeAt [(.zp, 0xC6), (.zpx, 0xD6), (.abs, 0xCE), (.abx, 0xDE)] m.mode
  | .inx => some 0xE8
  | .iny => some 0xC8
  | .dex => some 0xCA
  | .dey => some 0x88
  | .and o => opcodeAt [(.imm, 0x29), (.zp, 0x25), (.zpx, 0x35), (.abs, 0x2D),
      (.abx, 0x3D), (.aby, 0x39), (.izx, 0x21), (.izy, 0x31)] o.mode
  | .ora o => opcodeAt [(.imm, 0x09), (.zp, 0x05), (.zpx, 0x15), (.abs, 0x0D),
      (.abx, 0x1D), (.aby, 0x19), (.izx, 0x01), (.izy, 0x11)] o.mode
  | .eor o => opcodeAt [(.imm, 0x49), (.zp, 0x45), (.zpx, 0x55), (.abs, 0x4D),
      (.abx, 0x5D), (.aby, 0x59), (.izx, 0x41), (.izy, 0x51)] o.mode
  | .bit m => opcodeAt [(.zp, 0x24), (.abs, 0x2C)] m.mode
  | .asl d => opcodeAt [(.acc, 0x0A), (.zp, 0x06), (.zpx, 0x16), (.abs, 0x0E), (.abx, 0x1E)] d.mode
  | .lsr d => opcodeAt [(.acc, 0x4A), (.zp, 0x46), (.zpx, 0x56), (.abs, 0x4E), (.abx, 0x5E)] d.mode
  | .rol d => opcodeAt [(.acc, 0x2A), (.zp, 0x26), (.zpx, 0x36), (.abs, 0x2E), (.abx, 0x3E)] d.mode
  | .ror d => opcodeAt [(.acc, 0x6A), (.zp, 0x66), (.zpx, 0x76), (.abs, 0x6E), (.abx, 0x7E)] d.mode
  | .jmp (.abs _) => some 0x4C
  | .jmp (.ind _) => some 0x6C
  | .jsr _ => some 0x20
  | .rts => some 0x60
  | .rti => some 0x40
  | .brk => some 0x00
  | .bpl _ => some 0x10
  | .bmi _ => some 0x30
  | .bvc _ => some 0x50
  | .bvs _ => some 0x70
  | .bcc _ => some 0x90
  | .bcs _ => some 0xB0
  | .bne _ => some 0xD0
  | .beq _ => some 0xF0
  | .clc => some 0x18
  | .sec => some 0x38
  | .cli => some 0x58
  | .sei => some 0x78
  | .cld => some 0xD8
  | .sed => some 0xF8
  | .clv => some 0xB8
  | .nop op n => if (nopOpcodes n.mode).contains op then some op else none
  | .slo m => opcodeAt [(.zp, 0x07), (.zpx, 0x17), (.abs, 0x0F), (.abx, 0x1F),
      (.aby, 0x1B), (.izx, 0x03), (.izy, 0x13)] m.mode
  | .rla m => opcodeAt [(.zp, 0x27), (.zpx, 0x37), (.abs, 0x2F), (.abx, 0x3F),
      (.aby, 0x3B), (.izx, 0x23), (.izy, 0x33)] m.mode
  | .sre m => opcodeAt [(.zp, 0x47), (.zpx, 0x57), (.abs, 0x4F), (.abx, 0x5F),
      (.aby, 0x5B), (.izx, 0x43), (.izy, 0x53)] m.mode
  | .rra m => opcodeAt [(.zp, 0x67), (.zpx, 0x77), (.abs, 0x6F), (.abx, 0x7F),
      (.aby, 0x7B), (.izx, 0x63), (.izy, 0x73)] m.mode
  | .dcp m => opcodeAt [(.zp, 0xC7), (.zpx, 0xD7), (.abs, 0xCF), (.abx, 0xDF),
      (.aby, 0xDB), (.izx, 0xC3), (.izy, 0xD3)] m.mode
  | .isc m => opcodeAt [(.zp, 0xE7), (.zpx, 0xF7), (.abs, 0xEF), (.abx, 0xFF),
      (.aby, 0xFB), (.izx, 0xE3), (.izy, 0xF3)] m.mode
  | .sax m => opcodeAt [(.zp, 0x87), (.zpy, 0x97), (.abs, 0x8F), (.izx, 0x83)] m.mode
  | .lax m => opcodeAt [(.zp, 0xA7), (.zpy, 0xB7), (.abs, 0xAF), (.aby, 0xBF),
      (.izx, 0xA3), (.izy, 0xB3)] m.mode
  | .lxa _ => some 0xAB
  | .anc op _ => if ancOpcodes.contains op then some op else none
  | .alr _ => some 0x4B
  | .arr _ => some 0x6B
  | .ane _ => some 0x8B
  | .sbx _ => some 0xCB
  | .usbc _ => some 0xEB
  | .jam op => if jamOpcodes.contains op then some op else none
  | .sha m => opcodeAt [(.aby, 0x9F), (.izy, 0x93)] m.mode
  | .shx m => opcodeAt [(.aby, 0x9E)] m.mode
  | .shy m => opcodeAt [(.abx, 0x9C)] m.mode
  | .tas m => opcodeAt [(.aby, 0x9B)] m.mode
  | .las m => opcodeAt [(.aby, 0xBB)] m.mode

/-- The operand bytes of a memory form, in memory order (R121, R160). -/
def Mem.bytes : Mem → List Byte
  | .zp b | .zpX b | .zpY b | .indX b | .indY b => [b]
  | .abs w | .absX w | .absY w => [operandLo w, operandHi w]

/-- The operand bytes of an instruction, in memory order (R160). -/
def Instr.operandBytes : Instr → List Byte
  | .lda o | .ldx o | .ldy o | .adc o | .sbc o | .cmp o | .cpx o | .cpy o | .and o | .ora o | .eor o =>
    match o with
    | .imm v => [v]
    | .mem m => m.bytes
  | .sta m | .stx m | .sty m | .inc m | .dec m | .bit m | .sax m | .lax m | .sha m | .shx m | .shy m | .tas m
  | .las m | .slo m | .rla m | .sre m | .rra m | .dcp m | .isc m => m.bytes
  | .asl d | .lsr d | .rol d | .ror d =>
    match d with
    | .acc => []
    | .mem m => m.bytes
  | .nop _ n =>
    match n with
    | .implied => []
    | .imm v => [v]
    | .mem m => m.bytes
  | .jmp (.abs w) | .jmp (.ind w) | .jsr w => [operandLo w, operandHi w]
  | .bpl b | .bmi b | .bvc b | .bvs b | .bcc b | .bcs b | .bne b | .beq b => [b]
  | .lxa v | .anc _ v | .alr v | .arr v | .ane v | .sbx v | .usbc v => [v]
  | .tax | .tay | .txa | .tya | .tsx | .txs | .pha | .php | .pla | .plp | .inx | .iny | .dex | .dey
  | .rts | .rti | .brk | .clc | .sec | .cli | .sei | .cld | .sed | .clv | .jam _ => []

/-- The bytes of an instruction; none for a form the table does not have (WellFormed.lean). -/
def encode (i : Instr) : List Byte :=
  match i.opcode? with
  | some op => op :: i.operandBytes
  | none => []

end Sys2Proof
end

