-- ==== Sys2Proof/Config.lean ====
section
/-! DEFINITION. What the spec leaves free for good: the draws (R17 of 00_scope.md). The timing constants
and vectors are parameters with defaults (R9) and stand in the state, Machine/Params.lean. -/

namespace Sys2Proof

/-- The n-th draw of a run (R17, R508): the byte of an open-bus read, of a sound-chip, time-of-day or
serial register read, the bits of a port or colour-RAM read that have no storage, and the constant of ANE
and LXA. It has no body: nothing can evaluate it and no statement can rest on a value of it. DESIGN CHOICE, log
entry 6. -/
opaque Config.freeByte : Nat → Byte

end Sys2Proof
end

