-- ==== Sys2Proof/Machine/Cells.lean ====
section
/-! DEFINITION. Storage as plain data: a list of (address, value) pairs with addresses strictly rising and
no value 0, which is what an unlisted address reads as. RAM, the ROM images, colour RAM and the VIC register
cells (R54, R430) are each one such list, so equal storage is equal data. For RAM and colour RAM the 0 of an
unlisted cell is the model's choice (DESIGN CHOICE, log entries 3 and 4), for the VIC cells it is R449. -/

namespace Sys2Proof.Machine

/-- Storage cells of `w` bits. -/
abbrev Cells (w : Nat) := List (Nat × BitVec w)

/-- A RAM or ROM: `Cells 8` is a list of the host's cells. -/
abbrev Memory := List Host.Cell

/-- What the cell at `a` holds: its listed value, else 0. -/
def Cells.read {w : Nat} : Cells w → Nat → BitVec w
  | [], _ => 0
  | (k, v) :: rest, a => if a = k then v else Cells.read rest a

/-- Store `v` at `a`, keeping the canonical form: a 0 is not listed. -/
def Cells.write {w : Nat} : Cells w → Nat → BitVec w → Cells w
  | [], a, v => if v = 0 then [] else [(a, v)]
  | (k, u) :: rest, a, v =>
    if a = k then (if v = 0 then rest else (k, v) :: rest)
    else if a < k then (if v = 0 then (k, u) :: rest else (a, v) :: (k, u) :: rest)
    else (k, u) :: Cells.write rest a v

/-- The canonical form from address `low` on: addresses rise strictly from `low`, stay below `size`, and no
listed value is 0. -/
def Cells.wfFrom {w : Nat} (size : Nat) : Nat → Cells w → Bool
  | _, [] => true
  | low, (k, v) :: rest => decide (low ≤ k) && decide (k < size) && decide (v ≠ 0) && Cells.wfFrom size (k + 1) rest

/-- The canonical form of a storage of `size` cells. -/
def Cells.wf {w : Nat} (size : Nat) (m : Cells w) : Bool := Cells.wfFrom size 0 m

/-- The canonical form of the 64 KiB RAM. -/
abbrev Memory.wf (m : Memory) : Prop := Cells.wf 65536 m = true

/-- Store bytes at consecutive addresses (an image of R503). -/
def Cells.writeAll {w : Nat} (m : Cells w) (base : Nat) : List (BitVec w) → Cells w
  | [] => m
  | v :: rest => Cells.writeAll (Cells.write m base v) (base + 1) rest

end Sys2Proof.Machine
end

