-- ==== Sys2Proof/Machine/Bits.lean ====
section
/-! DEFINITION. The notation of R11 and R12 (00_scope.md): fields, halves of a word, extensions. -/

namespace Sys2Proof.Machine

/-- `lo(w) = w[7:0]` (R12). -/
def lo (w : Word) : Byte := w.extractLsb' 0 8

/-- `hi(w) = w[15:8]` (R12). -/
def hi (w : Word) : Byte := w.extractLsb' 8 8

/-- `h:l` (R11): the word of a high and a low byte. -/
def cat (h l : Byte) : Word := h ++ l

/-- `zext_16(v)` (R12). -/
def zext16 (v : Byte) : Word := v.zeroExtend 16

/-- `sext_16(v)` (R12). -/
def sext16 (v : Byte) : Word := v.signExtend 16

/-- The address of the stack byte, `$0100 | S` (R15, R43). -/
def stackAddr (sp : Byte) : Word := 0x0100 ||| zext16 sp

/-- A byte from its bits, bit n at `f n`. -/
def byteOfBits (f : Nat → Bool) : Byte :=
  BitVec.ofNat 8 ((f 0).toNat + 2 * (f 1).toNat + 4 * (f 2).toNat + 8 * (f 3).toNat + 16 * (f 4).toNat
    + 32 * (f 5).toNat + 64 * (f 6).toNat + 128 * (f 7).toNat)

end Sys2Proof.Machine
end

