-- ==== Sys2Proof/Machine/Cia.lean ====
section
/-! DEFINITION. A CIA as far as the CORE has it (R460 to R489, 60_exceptions.md): two timers, the interrupt
flags and mask, and the ports. The bus reaches the registers through `ciaRead`, `ciaAfterRead` and
`ciaWrite` alone. -/

namespace Sys2Proof.Machine

/-- A CIA's state (R56). -/
structure Cia where
  taLatch : Word
  taCounter : Word
  tbLatch : Word
  tbCounter : Word
  cra : Byte
  crb : Byte
  icrData : BitVec 5      -- 0 TA, 1 TB, 2 ALRM, 3 SP, 4 FLG (R471)
  icrMask : BitVec 5
  pra : Byte
  prb : Byte
  ddra : Byte
  ddrb : Byte
  sdr : Byte
  tod10 : Byte
  todSec : Byte
  todMin : Byte
  todHr : Byte
deriving DecidableEq, Repr

/-- A CIA at reset (R489). -/
def ciaReset : Cia where
  taLatch := 0xFFFF
  taCounter := 0xFFFF
  tbLatch := 0xFFFF
  tbCounter := 0xFFFF
  cra := 0
  crb := 0
  icrData := 0
  icrMask := 0
  pra := 0
  prb := 0
  ddra := 0
  ddrb := 0
  sdr := 0
  tod10 := 0
  todSec := 0
  todMin := 0
  todHr := 0

/-- The interrupt output `IR` (R472). -/
def ciaIr (c : Cia) : Bool := c.icrData &&& c.icrMask != 0

/-- `drive_A` (R461): an input pin is pulled up. -/
def driveA (c : Cia) : Byte := c.pra ||| ~~~c.ddra

/-- `drive_B` (R461). -/
def driveB (c : Cia) : Byte := c.prb ||| ~~~c.ddrb

/-! ## Stage (b): events and timers -/

/-- What the host supplies to a CIA for one master cycle: the CNT input (R475) and the event bits 2, 3, 4 of
the ICR (R471), lowest bit ALRM. -/
structure CiaIn where
  cntEdge : Bool
  cntLevel : Bool
  events : BitVec 3
deriving DecidableEq, Repr

/-- The defaults of R475 and no event. -/
def ciaQuiet : CiaIn := ⟨false, true, 0⟩

/-- A timer after one master cycle. -/
structure TimerOut where
  counter : Word
  cr : Byte
  underflow : Bool
deriving DecidableEq, Repr

/-- One timer's step (R467): `counts` says whether this is a qualifying cycle. -/
def timerStep (counter latch : Word) (cr : Byte) (counts : Bool) : TimerOut :=
  if counts then
    if counter.toNat ≤ 1 then
      if cr.getLsbD 3 then ⟨0, cr &&& 0xFE, true⟩ else ⟨latch, cr, true⟩
    else ⟨counter - 1, cr, false⟩
  else ⟨counter, cr, false⟩

/-- Timer A counts in this cycle (R467, R465). -/
def timerACounts (c : Cia) (inp : CiaIn) : Bool := c.cra.getLsbD 0 && (!c.cra.getLsbD 5 || inp.cntEdge)

/-- Timer B counts in this cycle, timer A having underflowed or not in this same stage (R467, R466, R468). -/
def timerBCounts (c : Cia) (inp : CiaIn) (aUnder : Bool) : Bool :=
  c.crb.getLsbD 0 &&
    (if c.crb.getLsbD 6 then aUnder && (!c.crb.getLsbD 5 || inp.cntLevel)
     else !c.crb.getLsbD 5 || inp.cntEdge)

/-- A CIA's stage (b) (R478): the host events, then timer A, then timer B. -/
def ciaStep (inp : CiaIn) (c : Cia) : Cia :=
  let ta := timerStep c.taCounter c.taLatch c.cra (timerACounts c inp)
  let tb := timerStep c.tbCounter c.tbLatch c.crb (timerBCounts c inp ta.underflow)
  { c with
    taCounter := ta.counter, cra := ta.cr, tbCounter := tb.counter, crb := tb.cr
    icrData := c.icrData ||| (inp.events ++ BitVec.ofBool tb.underflow ++ BitVec.ofBool ta.underflow) }

/-! ## Registers -/

/-- An access to this register (0 to 15) reads a draw (R460, R476). -/
def ciaReadsDraw (off : Nat) : Bool := decide (8 ≤ off) && decide (off ≤ 0xC)

/-- What a CPU read of register `off` (0 to 15) returns (R460, R463, R473), the port pins reading `pinsA` and
`pinsB` (R461) and a draw `free` standing for the registers of R476. -/
def ciaRead (c : Cia) (pinsA pinsB free : Byte) (off : Nat) : Byte :=
  if off = 0 then pinsA
  else if off = 1 then pinsB
  else if off = 2 then c.ddra
  else if off = 3 then c.ddrb
  else if off = 4 then lo c.taCounter
  else if off = 5 then hi c.taCounter
  else if off = 6 then lo c.tbCounter
  else if off = 7 then hi c.tbCounter
  else if off ≤ 0xC then free
  else if off = 0xD then (if ciaIr c then 0x80 else 0x00) ||| c.icrData.zeroExtend 8
  else if off = 0xE then c.cra &&& 0xEF
  else c.crb &&& 0xEF

/-- What the same read leaves: the ICR's flags are cleared in the same access (R473, R131). -/
def ciaAfterRead (c : Cia) (off : Nat) : Cia := if off = 0xD then { c with icrData := 0 } else c

/-- The counter after a write of `v` to a control register that held `cr` (R469): a force-load, or a start
from zero. -/
def loadOnControl (counter latch : Word) (cr v : Byte) : Word :=
  if v.getLsbD 4 then latch
  else if v.getLsbD 0 && !cr.getLsbD 0 && (counter == 0) then latch
  else counter

/-- A CPU write of `v` to register `off` (0 to 15) (R460, R462, R464, R469, R474, R476). -/
def ciaWrite (c : Cia) (off : Nat) (v : Byte) : Cia :=
  if off = 0 then { c with pra := v }
  else if off = 1 then { c with prb := v }
  else if off = 2 then { c with ddra := v }
  else if off = 3 then { c with ddrb := v }
  else if off = 4 then { c with taLatch := cat (hi c.taLatch) v }
  else if off = 5 then { c with taLatch := cat v (lo c.taLatch) }
  else if off = 6 then { c with tbLatch := cat (hi c.tbLatch) v }
  else if off = 7 then { c with tbLatch := cat v (lo c.tbLatch) }
  else if off = 8 then { c with tod10 := v }
  else if off = 9 then { c with todSec := v }
  else if off = 0xA then { c with todMin := v }
  else if off = 0xB then { c with todHr := v }
  else if off = 0xC then { c with sdr := v }
  else if off = 0xD then
    { c with icrMask := if v.getLsbD 7 then c.icrMask ||| v.extractLsb' 0 5
                        else c.icrMask &&& ~~~(v.extractLsb' 0 5) }
  else if off = 0xE then
    { c with cra := v &&& 0xEF, taCounter := loadOnControl c.taCounter c.taLatch c.cra v }
  else
    { c with crb := v &&& 0xEF, tbCounter := loadOnControl c.tbCounter c.tbLatch c.crb v }

end Sys2Proof.Machine
end

