-- ==== Sys2Proof/Machine/Cpu.lean ====
section
/-! DEFINITION. The CPU's state: the registers and flags of R40 and R45, the sequencer of R49 and the
interrupt state of R50 (10_state.md), with its values at reset (R58) and at power-on (R504). -/

namespace Sys2Proof.Machine

/-- What the CPU is executing (R49 `opcode`): nothing yet, because the next CPU cycle is the T1 that the most
recent poll chooses at an instruction boundary (R401); nothing yet, after a sequence or BRK, where the opcode at
the new PC is fetched whatever that poll was (R413; DEDUCED, log entry 13); an instruction, by its opcode byte;
or one of the pseudo-opcodes IRQSEQ, NMISEQ, RESETSEQ. -/
inductive Seq where
  | boundary
  | handler
  | instr (op : Byte)
  | irqSeq
  | nmiSeq
  | resetSeq
deriving DecidableEq, Repr

/-- The CPU. `ptr` holds the first operand byte and `base` the operand word of the current instruction
(DEDUCED, log entry 14); the six flags are Bools because they have no byte of storage (R47). -/
structure Cpu where
  a : Byte
  x : Byte
  y : Byte
  sp : Byte            -- S
  pc : Word
  c : Bool
  z : Bool
  i : Bool
  d : Bool
  v : Bool
  n : Bool
  seq : Seq            -- opcode (R49)
  t : Nat              -- the index of the next CPU cycle, 1 to 8 (R49)
  ea : Word            -- effective-address latch (R49); the selected vector in an interrupt sequence
  base : Word          -- base address before indexing (R49)
  ptr : Byte           -- zero-page pointer (R49)
  data : Byte          -- data latch (R49)
  crossed : Bool
  taken : Bool
  jammed : Bool
  irqLatch : Bool      -- irq_latch (R50)
  nmiPrev : Bool       -- nmi_level_prev (R50)
  nmiPending : Bool
  pollIrq : Bool
  pollNmi : Bool
  resetPending : Bool
deriving DecidableEq, Repr

/-- What a machine reset makes of the CPU (R505, R415): A, X, Y, S and the flags but I at 0, the NMI edge,
the polls and the halt cleared, and T1 of the reset sequence next. PC, I and the line latches stay
(DEDUCED, log entry 20). -/
def applyCpuReset (c : Cpu) : Cpu :=
  { c with
    a := 0, x := 0, y := 0, sp := 0
    c := false, z := false, d := false, v := false, n := false
    seq := .resetSeq, t := 1
    jammed := false, nmiPending := false, pollIrq := false, pollNmi := false, resetPending := false }

/-- The CPU at power-on (R504): RESET asserted, so a reset is pending. Every register is a draw there and the hidden
state is not named; the values are the model's (DESIGN CHOICE, log entry 7), and the reset overwrites all but PC, I and
the latches. -/
def cpuPowerOn : Cpu where
  a := 0
  x := 0
  y := 0
  sp := 0
  pc := 0
  c := false
  z := false
  i := false
  d := false
  v := false
  n := false
  seq := .boundary
  t := 1
  ea := 0
  base := 0
  ptr := 0
  data := 0
  crossed := false
  taken := false
  jammed := false
  irqLatch := false
  nmiPrev := false
  nmiPending := false
  pollIrq := false
  pollNmi := false
  resetPending := true

/-- The CPU when the reset sequence has finished (R58). `pc` is the reset vector, as read with no ROM image
loaded (DESIGN CHOICE, log entry 5). -/
def cpuAfterReset : Cpu :=
  { cpuPowerOn with sp := 0xFD, i := true, pc := 0x0000, seq := .handler, resetPending := false }

end Sys2Proof.Machine
end

