-- ==== Sys2Proof/Machine/HostInputs.lean ====
section
/-! DEFINITION. What the host hands to the CORE (R508, 70_reset_and_hazards.md), as plain data: the held
levels, the optional cartridge map of R92, and the inputs of one master cycle. A queue of the latter in the
state is how a run meets any sequence of host actions (DESIGN CHOICE, log entry 9). -/

namespace Sys2Proof.Machine

/-- The region of the address space that answers an access (R82, R85, R89). -/
inductive Region where
  | port
  | ram
  | romBasic
  | romKernal
  | romChar
  | vic
  | sid
  | color
  | cia1
  | cia2
  | io1
  | io2
deriving DecidableEq, Repr

/-- The direction of an access (R81). -/
inductive Dir where
  | read
  | write
deriving DecidableEq, Repr

/-- The bank configuration (R53). -/
structure BankConfig where
  loram : Bool
  hiram : Bool
  charen : Bool
  exrom : Bool
  game : Bool
deriving DecidableEq, Repr

/-- One row of a `CART_MAP` (R92) as data: under this configuration and direction, the addresses from
`first` to `last` are answered by `region`, `first` at its cell `offset` (DESIGN CHOICE, log entry 11). -/
structure CartRow where
  bank : BankConfig
  dir : Dir
  first : Nat
  last : Nat
  region : Region
  offset : Nat
deriving DecidableEq, Repr

/-- The levels the host holds (R508). -/
structure Held where
  keys : List (Fin 8 × Fin 8)      -- KEYS: the pressed (column, row) pairs (R461)
  joy1 : BitVec 5
  joy2 : BitVec 5
  cia2PA : Byte                    -- CIA2_PA_IN
  cia2PB : Byte                    -- CIA2_PB_IN
  portPins : BitVec 3              -- PORT_PINS_IN[5:3] (R90)
  irqExt : Bool
  nmiExt : Bool
  exrom : Bool
  game : Bool
  cartMap : Option (List CartRow)  -- CART_MAP, absent or supplied (R92)
deriving DecidableEq, Repr

/-- The defaults of R508; no key, no joystick and the 6510 port's input pins high (DESIGN CHOICE, log entry 10). -/
def heldDefault : Held where
  keys := []
  joy1 := 0
  joy2 := 0
  cia2PA := 0xFF
  cia2PB := 0xFF
  portPins := 0b111
  irqExt := false
  nmiExt := false
  exrom := true
  game := true
  cartMap := none

/-- What the host supplies for one master cycle (R508): a reset applied before it (R505), new held levels if
they change, the CIA inputs, and the video events (R437; a mask of 0 and no pen are no event). -/
structure CycleIn where
  reset : Bool
  held : Option Held
  cia1 : CiaIn
  cia2 : CiaIn
  collideMM : Byte
  collideMD : Byte
  pen : Option (Byte × Byte)
deriving DecidableEq, Repr

/-- A master cycle in which the host does nothing. -/
def cycleQuiet : CycleIn := ⟨false, none, ciaQuiet, ciaQuiet, 0, 0, none⟩

/-- An event of the sound-chip window (R94): address, value, master cycle. -/
structure SoundEvent where
  addr : Word
  value : Byte
  mcycle : Nat
deriving DecidableEq, Repr

end Sys2Proof.Machine
end

