-- ==== Sys2Proof/Machine/Params.lean ====
section
/-! DEFINITION. The implementation parameters of R9 (00_scope.md) as plain data, and their PAL defaults.
They stand in a field of State that no step changes, so a statement over all states holds for every value
of them (R10); the NTSC set is any other value of the field (R448). DESIGN CHOICE, log entry 12. -/

namespace Sys2Proof.Machine

/-- `SPRITE_WIN_START(n)` for each sprite (R9). -/
structure SpriteStarts where
  s0 : Nat
  s1 : Nat
  s2 : Nat
  s3 : Nat
  s4 : Nat
  s5 : Nat
  s6 : Nat
  s7 : Nat
deriving DecidableEq, Repr

/-- The parameters of R9 that are numbers. -/
structure Params where
  lines : Nat                 -- LINES
  cpl : Nat                   -- CPL
  badBaFirst : Nat            -- BADLINE_BA_FIRST
  badBaLast : Nat             -- BADLINE_BA_LAST
  badFirstLine : Nat          -- BADLINE_FIRST_LINE
  badLastLine : Nat           -- BADLINE_LAST_LINE
  spriteCheckCycle : Nat      -- SPRITE_CHECK_CYCLE
  spriteWinStarts : SpriteStarts  -- SPRITE_WIN_START(n)
  spriteWinLen : Nat          -- SPRITE_WIN_LEN
  spriteRounds : Nat          -- SPRITE_ROUNDS
  spriteRoundsYExp : Nat      -- SPRITE_ROUNDS_YEXP
  vecNmi : Word               -- VEC_NMI
  vecReset : Word             -- VEC_RESET
  vecIrq : Word               -- VEC_IRQ
deriving DecidableEq, Repr

/-- The defaults of R9: the PAL C64. -/
def palParams : Params where
  lines := 312
  cpl := 63
  badBaFirst := 11
  badBaLast := 53
  badFirstLine := 0x30
  badLastLine := 0xF7
  spriteCheckCycle := 54
  spriteWinStarts := ⟨54, 56, 58, 60, 62, 64, 66, 68⟩
  spriteWinLen := 5
  spriteRounds := 21
  spriteRoundsYExp := 42
  vecNmi := 0xFFFA
  vecReset := 0xFFFC
  vecIrq := 0xFFFE

/-- `SPRITE_WIN_START(n)`, `n` 0 to 7; the last for any other number (R9). -/
def spriteWinStart (p : Params) (n : Nat) : Nat :=
  match n with
  | 0 => p.spriteWinStarts.s0
  | 1 => p.spriteWinStarts.s1
  | 2 => p.spriteWinStarts.s2
  | 3 => p.spriteWinStarts.s3
  | 4 => p.spriteWinStarts.s4
  | 5 => p.spriteWinStarts.s5
  | 6 => p.spriteWinStarts.s6
  | _ => p.spriteWinStarts.s7

end Sys2Proof.Machine
end

