-- ==== Sys2Proof/Machine/Vic.lean ====
section
/-! DEFINITION. The VIC as far as the CORE has it (R430 to R450, 60_exceptions.md): the register file, the
interrupt latch, the raster position, the badline and sprite-DMA arbiter, and the host video events. Every
function here is one stage of a master cycle or one bus access; the bus reaches the registers through
`vicRead`, `vicAfterRead` and `vicWrite` alone. -/

namespace Sys2Proof.Machine

/-- One sprite's DMA state (R55): `sprite_dma[n]` and `sprite_rounds_left[n]`. -/
structure Sprite where
  dma : Bool
  left : Nat
deriving DecidableEq, Repr

/-- The eight sprites. -/
structure Sprites where
  s0 : Sprite
  s1 : Sprite
  s2 : Sprite
  s3 : Sprite
  s4 : Sprite
  s5 : Sprite
  s6 : Sprite
  s7 : Sprite
deriving DecidableEq, Repr

/-- The VIC's state (R55). The 47 register cells are `cells` by offset, but for $12 (the raster compare),
$13/$14 (light pen), $19/$1A (latch and enable) and $1E/$1F (collisions), which have fields of their own. -/
structure Vic where
  line : BitVec 9          -- raster_line
  cyc : Nat                -- raster_cyc
  cells : Cells 8
  cmp : BitVec 9           -- raster_cmp
  irqLatch : BitVec 4      -- irq_latch_vic: 0 IRST, 1 IMBC, 2 IMMC, 3 ILP
  irqEnable : BitVec 4     -- irq_enable_vic
  collMM : Byte            -- $1E
  collMD : Byte            -- $1F
  lpX : Byte               -- $13
  lpY : Byte               -- $14
  eqPrev : Bool            -- raster_eq_prev
  denSeen : Bool
  lpSeen : Bool
  sprites : Sprites
deriving DecidableEq, Repr

/-- A sprite at reset (R449). -/
def spriteOff : Sprite := ⟨false, 0⟩

/-- The VIC at reset (R449). -/
def vicReset : Vic where
  line := 0
  cyc := 0
  cells := []
  cmp := 0
  irqLatch := 0
  irqEnable := 0
  collMM := 0
  collMD := 0
  lpX := 0
  lpY := 0
  eqPrev := false
  denSeen := false
  lpSeen := false
  sprites := ⟨spriteOff, spriteOff, spriteOff, spriteOff, spriteOff, spriteOff, spriteOff, spriteOff⟩

/-- The same change to every sprite, which is told its number. -/
def mapSprites (f : Nat → Sprite → Sprite) (p : Sprites) : Sprites :=
  ⟨f 0 p.s0, f 1 p.s1, f 2 p.s2, f 3 p.s3, f 4 p.s4, f 5 p.s5, f 6 p.s6, f 7 p.s7⟩

/-- Some sprite has the property. -/
def anySprite (f : Nat → Sprite → Bool) (p : Sprites) : Bool :=
  f 0 p.s0 || f 1 p.s1 || f 2 p.s2 || f 3 p.s3 || f 4 p.s4 || f 5 p.s5 || f 6 p.s6 || f 7 p.s7

/-! ## Registers -/

/-- `VIC_IRQ` (R434). -/
def vicIrq (v : Vic) : Bool := v.irqLatch &&& v.irqEnable != 0

/-- A register cell. -/
def vicCell (v : Vic) (off : Nat) : Byte := Cells.read v.cells off

/-- What a CPU read of register `off` (0 to 63) returns (R430). -/
def vicRead (v : Vic) (off : Nat) : Byte :=
  if off = 0x11 then v.line.extractLsb' 8 1 ++ (vicCell v 0x11).extractLsb' 0 7
  else if off = 0x12 then v.line.extractLsb' 0 8
  else if off = 0x13 then v.lpX
  else if off = 0x14 then v.lpY
  else if off = 0x16 then vicCell v 0x16 ||| 0xC0
  else if off = 0x18 then vicCell v 0x18 ||| 0x01
  else if off = 0x19 then (if vicIrq v then 0x80 else 0x00) ||| 0x70 ||| v.irqLatch.zeroExtend 8
  else if off = 0x1A then 0xF0 ||| v.irqEnable.zeroExtend 8
  else if off = 0x1E then v.collMM
  else if off = 0x1F then v.collMD
  else if off < 0x20 then vicCell v off
  else if off < 0x2F then vicCell v off ||| 0xF0
  else 0xFF

/-- What the same read leaves (R436, R131): a collision register read is cleared in the same access. -/
def vicAfterRead (v : Vic) (off : Nat) : Vic :=
  if off = 0x1E then { v with collMM := 0 }
  else if off = 0x1F then { v with collMD := 0 }
  else v

/-- A CPU write of `x` to register `off` (R430, R435). -/
def vicWrite (v : Vic) (off : Nat) (x : Byte) : Vic :=
  if off = 0x11 then
    { v with cells := Cells.write v.cells 0x11 x, cmp := x.extractLsb' 7 1 ++ v.cmp.extractLsb' 0 8 }
  else if off = 0x12 then { v with cmp := v.cmp.extractLsb' 8 1 ++ x }
  else if off = 0x13 ∨ off = 0x14 then v
  else if off = 0x19 then { v with irqLatch := v.irqLatch &&& ~~~(x.extractLsb' 0 4) }
  else if off = 0x1A then { v with irqEnable := x.extractLsb' 0 4 }
  else if off = 0x1E ∨ off = 0x1F then v
  else if off < 0x2F then { v with cells := Cells.write v.cells off x }
  else v

/-! ## Stage (a): the cycle-steal arbiter -/

/-- `DEN`, `$11[4]` (R430). -/
def vicDen (v : Vic) : Bool := (vicCell v 0x11).getLsbD 4

/-- The badline condition (R438). -/
def badline (p : Params) (v : Vic) : Bool :=
  decide (p.badFirstLine ≤ v.line.toNat) && decide (v.line.toNat ≤ p.badLastLine)
    && (v.line.extractLsb' 0 3 == (vicCell v 0x11).extractLsb' 0 3) && v.denSeen

/-- The cycle's place in sprite n's window, `(raster_cyc - SPRITE_WIN_START(n)) mod CPL` (R441). -/
def winPlace (p : Params) (v : Vic) (n : Nat) : Nat :=
  (v.cyc + (p.cpl - spriteWinStart p n % p.cpl)) % p.cpl

/-- Sprite DMA switch-on (R440). -/
def spriteSwitchOn (p : Params) (v : Vic) : Vic :=
  if v.cyc = p.spriteCheckCycle then
    { v with sprites := mapSprites (fun n s =>
        if !s.dma && (vicCell v 0x15).getLsbD n && (vicCell v (2 * n + 1) == v.line.extractLsb' 0 8) then
          ⟨true, if (vicCell v 0x17).getLsbD n then p.spriteRoundsYExp else p.spriteRounds⟩
        else s) v.sprites }
  else v

/-- The stall request of a master cycle (R442): the badline window (R439) or some sprite's window (R441). -/
def vicStall (p : Params) (v : Vic) : Bool :=
  (badline p v && decide (p.badBaFirst ≤ v.cyc) && decide (v.cyc ≤ p.badBaLast))
    || anySprite (fun n s => s.dma && decide (winPlace p v n < p.spriteWinLen)) v.sprites

/-- The countdown at the last cycle of a sprite's window (R441). From 0 rounds, which the rule does not speak of, it
goes to 0 and ends the DMA (DESIGN CHOICE, log entry 21). -/
def spriteCountdown (p : Params) (v : Vic) : Vic :=
  { v with sprites := mapSprites (fun n s =>
      if s.dma && (winPlace p v n + 1 == p.spriteWinLen) then ⟨s.left - 1 != 0, s.left - 1⟩ else s) v.sprites }

/-! ## Stage (c): raster logic and host events -/

/-- Raster compare (R433). -/
def rasterCompare (v : Vic) : Vic :=
  let eq := v.line == v.cmp
  { v with irqLatch := if eq && !v.eqPrev then v.irqLatch ||| 1 else v.irqLatch, eqPrev := eq }

/-- The `den_seen` update (R438). -/
def denUpdate (p : Params) (v : Vic) : Vic :=
  if v.line.toNat = p.badFirstLine ∧ vicDen v = true then { v with denSeen := true } else v

/-- The host event `collide_mm(mask)` (R437); a mask of 0 changes nothing. -/
def collideMM (mask : Byte) (v : Vic) : Vic :=
  { v with irqLatch := if v.collMM = 0 ∧ mask ≠ 0 then v.irqLatch ||| 4 else v.irqLatch
           collMM := v.collMM ||| mask }

/-- The host event `collide_md(mask)` (R437); a mask of 0 changes nothing. -/
def collideMD (mask : Byte) (v : Vic) : Vic :=
  { v with irqLatch := if v.collMD = 0 ∧ mask ≠ 0 then v.irqLatch ||| 2 else v.irqLatch
           collMD := v.collMD ||| mask }

/-- The host event `light_pen(x, y)` (R437), if there is one. -/
def lightPen (xy : Option (Byte × Byte)) (v : Vic) : Vic :=
  match xy with
  | none => v
  | some (x, y) =>
    if v.lpSeen then v else { v with lpX := x, lpY := y, irqLatch := v.irqLatch ||| 8, lpSeen := true }

/-! ## Stage (f): the position -/

/-- This is the last cycle of the frame: the advance wraps to (0, 0) (R431, R432). -/
def frameEnds (p : Params) (v : Vic) : Bool :=
  decide (p.cpl ≤ v.cyc + 1) && decide (p.lines ≤ v.line.toNat + 1)

/-- The position advance (R431). -/
def vicAdvance (p : Params) (v : Vic) : Vic :=
  if p.cpl ≤ v.cyc + 1 then
    if p.lines ≤ v.line.toNat + 1 then { v with cyc := 0, line := 0, denSeen := false, lpSeen := false }
    else { v with cyc := 0, line := v.line + 1 }
  else { v with cyc := v.cyc + 1 }

end Sys2Proof.Machine
end

