-- ==== Sys2Proof/Machine/State.lean ====
section
/-! DEFINITION. The whole state of the CORE as plain data (10_state.md, R40 to R60): the CPU, the processor
port, the storage, the VIC, the two CIAs, the scheduler's counter, what the host holds and will supply, and
what the CORE has handed out. INVENTORY.md lists each piece with its rule and its value at reset. -/

namespace Sys2Proof.Machine

/-- Why the machine stops for good (R16, R511): `InternalFault(reason)`. -/
inductive Fault where
  /-- `NoSource` (R81): the bus meets an address with no answering region. Raised by `regionOf` (Bus.lean), which
  is total without a cartridge, so only a `CART_MAP` that leaves an address out raises it. Safe. -/
  | noSource
  /-- `StealConflict` (R442): two steal claims disagree. Nobody raises it: the stall is one boolean. Safe. -/
  | stealConflict
deriving DecidableEq, Repr

/-- Why there is no meaning (R17, R511). -/
inductive Refusal where
  /-- An instruction that has no meaning yet; raised by `exec`'s arm alone. Safe. -/
  | notModelled (mnemonic : String)
  /-- `(EXROM, GAME)` is not (1, 1) and there is no `CART_MAP` (R92). Raised by `masterCycle` and by
  `regionOf` (Bus.lean). Safe: the spec itself refuses the state. -/
  | cartMapAbsent
deriving DecidableEq, Repr

/-- The presentation snapshot of one master cycle (R444): the position and the VIC's register file as they
stood at the start of that cycle. The colour RAM that R444 exposes beside it is not in it: it is `State.color`, as
it stands between two master cycles, the cycle's own write included (DESIGN CHOICE, log entry 32). -/
structure Snapshot where
  mcycle : Nat
  line : BitVec 9
  cyc : Nat
  cells : Cells 8
  cmp : BitVec 9
  irqLatch : BitVec 4
  irqEnable : BitVec 4
  collMM : Byte
  collMD : Byte
  lpX : Byte
  lpY : Byte
deriving DecidableEq, Repr

/-- The snapshot of a VIC in master cycle `k`; colour RAM is exposed live (DESIGN CHOICE, log entry 32). -/
def snapshotOf (k : Nat) (v : Vic) : Snapshot :=
  ⟨k, v.line, v.cyc, v.cells, v.cmp, v.irqLatch, v.irqEnable, v.collMM, v.collMD, v.lpX, v.lpY⟩

/-- The state of the CORE. -/
structure State where
  cpu : Cpu
  ddr : Byte                   -- the 6510 port's data direction, $0000 (R51)
  port : Byte                  -- the 6510 port's output latch DATA, $0001 (R51)
  ram : Memory                 -- 65,536 bytes (R54)
  color : Cells 4              -- 1,024 cells of 4 bits (R54)
  romBasic : Memory            -- 8,192 bytes (R54)
  romKernal : Memory           -- 8,192 bytes (R54)
  romChar : Memory             -- 4,096 bytes (R54)
  vic : Vic
  cia1 : Cia
  cia2 : Cia
  mcycle : Nat                 -- the master cycle counter (R57)
  params : Params              -- the implementation parameters (R9); no step changes them
  host : Held                  -- what the host holds (R508)
  inputs : List CycleIn        -- what the host supplies for the coming master cycles, the next one first
  sound : List SoundEvent      -- the sound events handed out, the oldest first (R94)
  frames : List Nat            -- the frame_complete events handed out, the oldest first (R432)
  snapshot : Snapshot          -- the presentation snapshot of the last master cycle (R444)
  draws : Nat                  -- how many draws have been taken; the model's own (DESIGN CHOICE, log entry 6)
deriving DecidableEq, Repr

/-- The machine as the loader leaves it (R504) with no image loaded: RESET asserted, so that the first master
cycle is T1 of the reset sequence; every device in its reset state. `loadMachine` (Loader.lean) adds the
images. DDR and DATA, which R504 does not name, are $00 before that cycle's reset makes them so (DESIGN CHOICE, log
entry 7). The snapshot before any master cycle has run, which R444 does not give, is that of a VIC at reset (DESIGN
CHOICE, log entry 38). -/
def State.powerOn : State where
  cpu := cpuPowerOn
  ddr := 0
  port := 0
  ram := []
  color := []
  romBasic := []
  romKernal := []
  romChar := []
  vic := vicReset
  cia1 := ciaReset
  cia2 := ciaReset
  mcycle := 0
  params := palParams
  host := heldDefault
  inputs := []
  sound := []
  frames := []
  snapshot := snapshotOf 0 vicReset
  draws := 0

/-- The machine right after reset (R58): the reset sequence has finished and the first instruction is about
to be fetched. That is seven master cycles after power-on (R414, R500): the VIC has moved to (0, 7) and has
set IRST in the first of them (R449). DEDUCED, log entry 2. -/
def State.reset : State :=
  { State.powerOn with
    cpu := cpuAfterReset
    vic := { vicReset with cyc := 7, irqLatch := 1, eqPrev := true }
    mcycle := 7
    snapshot := snapshotOf 6 { vicReset with cyc := 6, irqLatch := 1 } }

end Sys2Proof.Machine
end

