-- ==== Sys2Proof/Machine/Bus.lean ====
section
/-! DEFINITION. The memory bus (20_memory.md): the bank decode of R82, R83 and R85, the processor port
(R89 to R91), and one CPU read or write of one byte with every side effect of the region that answers
(R14, R131, R132). The bank configuration is computed from the port at each access (R53, R84). -/

namespace Sys2Proof.Machine

/-- What an operation over the machine answers. -/
abbrev Answer (α : Type) := Host.Outcome α Fault Refusal

/-- Go on with what an operation answered; a fault or a refusal stops. -/
def andThen {α β : Type} (o : Answer α) (f : α → Answer β) : Answer β :=
  match o with
  | .next a => f a
  | .fault r => .fault r
  | .refused r => .refused r

/-! ## Bank decode -/

/-- The level of a bank-select pin (R52): the latch if it is an output, else pulled up. -/
def bankPin (s : State) (n : Nat) : Bool := (s.port ||| ~~~s.ddr).getLsbD n

/-- The bank configuration in force (R53). -/
def bankConfig (s : State) : BankConfig where
  loram := bankPin s 0
  hiram := bankPin s 1
  charen := bankPin s 2
  exrom := s.host.exrom
  game := s.host.game

/-- An answering region and the cell of it that answers (R81). -/
structure Target where
  region : Region
  offset : Nat
deriving DecidableEq, Repr

/-- The I/O window $D000 to $DFFF (R85), each device at its register select. -/
def ioTarget (a : Nat) : Target :=
  if a < 0xD400 then ⟨.vic, a % 64⟩
  else if a < 0xD800 then ⟨.sid, a % 32⟩
  else if a < 0xDC00 then ⟨.color, a - 0xD800⟩
  else if a < 0xDD00 then ⟨.cia1, a % 16⟩
  else if a < 0xDE00 then ⟨.cia2, a % 16⟩
  else if a < 0xDF00 then ⟨.io1, a - 0xDE00⟩
  else ⟨.io2, a - 0xDF00⟩

/-- The read decode of R82, without a cartridge, of an address from $0002 on. -/
def readTarget (b : BankConfig) (a : Nat) : Target :=
  if a < 0xA000 then ⟨.ram, a⟩
  else if a < 0xC000 then if b.loram && b.hiram then ⟨.romBasic, a - 0xA000⟩ else ⟨.ram, a⟩
  else if a < 0xD000 then ⟨.ram, a⟩
  else if a < 0xE000 then
    if !b.loram && !b.hiram then ⟨.ram, a⟩
    else if b.charen then ioTarget a
    else ⟨.romChar, a - 0xD000⟩
  else if b.hiram then ⟨.romKernal, a - 0xE000⟩
  else ⟨.ram, a⟩

/-- The write decode of R83: the I/O window where it is read, RAM everywhere else (RAM under ROM). -/
def writeTarget (b : BankConfig) (a : Nat) : Target :=
  let r := readTarget b a
  match r.region with
  | .romBasic | .romKernal | .romChar => ⟨.ram, a⟩
  | .port | .ram | .vic | .sid | .color | .cia1 | .cia2 | .io1 | .io2 => r

/-- How many cells a region has (R54, R85). -/
def regionSize : Region → Nat
  | .port => 2
  | .ram => 65536
  | .romBasic | .romKernal => 8192
  | .romChar => 4096
  | .vic => 64
  | .sid => 32
  | .color => 1024
  | .cia1 | .cia2 => 16
  | .io1 | .io2 => 256

/-- The cell of a row's region that answers at `a`: RAM at the address itself, any other region counted from
the row's first address. -/
def cartCell (r : CartRow) (a : Nat) : Nat :=
  if r.region = .ram then a else (r.offset + (a - r.first)) % regionSize r.region

/-- The decode a cartridge's map gives (R92): its first row that fits. An address no row answers is
`InternalFault(NoSource)` (R81). -/
def cartTarget (b : BankConfig) (d : Dir) (a : Nat) : List CartRow → Answer Target
  | [] => .fault .noSource
  | r :: rest =>
    if r.bank = b ∧ r.dir = d ∧ r.first ≤ a ∧ a ≤ r.last then .next ⟨r.region, cartCell r a⟩
    else cartTarget b d a rest

/-- `region(addr, BankConfig, dir)` (R81): the port always answers at $0000 and $0001 (R89); without a
cartridge R82 and R83; with one its map, and a refusal where it is absent (R92). -/
def regionOf (s : State) (d : Dir) (a : Nat) : Answer Target :=
  let b := bankConfig s
  if a < 2 then .next ⟨.port, a⟩
  else if b.exrom && b.game then
    match d with
    | .read => .next (readTarget b a)
    | .write => .next (writeTarget b a)
  else
    match s.host.cartMap with
    | none => .refused .cartMapAbsent
    | some rows => cartTarget b d a rows

/-! ## Values from outside the CORE -/

/-- The next draw (R17). -/
def nextDraw (s : State) : Byte := Config.freeByte s.draws

/-- The state after a draw has been taken. -/
def drawn (s : State) : State := { s with draws := s.draws + 1 }

/-- The port pins' levels (R90): the bank lines pulled up, the host's bits 5 to 3, and a draw's bits 7, 6. -/
def portPins (s : State) : Byte :=
  (nextDraw s).extractLsb' 6 2 ++ s.host.portPins ++ (0b111 : BitVec 3)

/-- A key of column `c` and row `r` is down (R461). -/
def keyDown (h : Held) (c r : Fin 8) : Bool := h.keys.contains (c, r)

/-- A joystick line of 5 bits, 1 = pressed; lines from 5 on do not exist (R461). -/
def joyDown (j : BitVec 5) (n : Nat) : Bool := j.getLsbD n

/-- `ext_A` of CIA1 (R461): column bit `c` is pulled low by joystick 2, or by a pressed key of the column
whose row is driven low or held by joystick 1. -/
def cia1ExtA (h : Held) (c : Cia) : Byte :=
  byteOfBits fun col =>
    !joyDown h.joy2 col && (List.finRange 8).all fun row =>
      !keyDown h (Fin.ofNat 8 col) row || ((driveB c).getLsbD row.val && !joyDown h.joy1 row.val)

/-- `ext_B` of CIA1 (R461): row bit `r` is pulled low by joystick 1, or by a pressed key of the row whose
column is driven low or held by joystick 2. -/
def cia1ExtB (h : Held) (c : Cia) : Byte :=
  byteOfBits fun row =>
    !joyDown h.joy1 row && (List.finRange 8).all fun col =>
      !keyDown h col (Fin.ofNat 8 row) || ((driveA c).getLsbD col.val && !joyDown h.joy2 col.val)

/-- What a read of register `off` of CIA1 returns. -/
def cia1Read (s : State) (off : Nat) : Byte :=
  ciaRead s.cia1 (driveA s.cia1 &&& cia1ExtA s.host s.cia1) (driveB s.cia1 &&& cia1ExtB s.host s.cia1)
    (nextDraw s) off

/-- What a read of register `off` of CIA2 returns. -/
def cia2Read (s : State) (off : Nat) : Byte :=
  ciaRead s.cia2 (driveA s.cia2 &&& s.host.cia2PA) (driveB s.cia2 &&& s.host.cia2PB) (nextDraw s) off

/-! ## One access -/

/-- The byte a read of a region's cell returns. A cartridge's map may name any region anywhere: I/O1 and I/O2 then
stay open bus (R95 speaks of no cartridge: DESIGN CHOICE, log entry 36), and the port answers with its registers
(DESIGN CHOICE, log entry 26). -/
def targetValue (s : State) (t : Target) : Byte :=
  match t.region with
  | .port => if t.offset = 0 then s.ddr else (s.port &&& s.ddr) ||| (portPins s &&& ~~~s.ddr)
  | .ram => Cells.read s.ram t.offset
  | .romBasic => Cells.read s.romBasic t.offset
  | .romKernal => Cells.read s.romKernal t.offset
  | .romChar => Cells.read s.romChar t.offset
  | .vic => vicRead s.vic t.offset
  | .sid | .io1 | .io2 => nextDraw s
  | .color => (nextDraw s).extractLsb' 4 4 ++ Cells.read s.color t.offset
  | .cia1 => cia1Read s t.offset
  | .cia2 => cia2Read s t.offset

/-- The state after that read (R131): a draw is taken where the value holds one, the CIA flags and the VIC
collision registers are cleared, and nothing else changes. -/
def targetAfterRead (s : State) (t : Target) : State :=
  match t.region with
  | .ram | .romBasic | .romKernal | .romChar => s
  | .port => if t.offset = 0 then s else drawn s
  | .sid | .io1 | .io2 | .color => drawn s
  | .vic => { s with vic := vicAfterRead s.vic t.offset }
  | .cia1 => { s with cia1 := ciaAfterRead s.cia1 t.offset
                      draws := if ciaReadsDraw t.offset then s.draws + 1 else s.draws }
  | .cia2 => { s with cia2 := ciaAfterRead s.cia2 t.offset
                      draws := if ciaReadsDraw t.offset then s.draws + 1 else s.draws }

/-- The state after a write of `v` at address `a`, which region's cell `t` answers (R83, R91, R93, R94, R95,
R132). A ROM is never written: the RAM beneath is. Where a cartridge's map names I/O1 or I/O2 a write has no effect
still (DESIGN CHOICE, log entry 36); where it names the port at an address from $0002 on, the register is written and
the RAM at that address (DESIGN CHOICE, log entry 26). -/
def targetWrite (s : State) (a : Word) (t : Target) (v : Byte) : State :=
  match t.region with
  | .port =>
    if t.offset = 0 then { s with ddr := v, ram := Cells.write s.ram a.toNat v }
    else { s with port := v, ram := Cells.write s.ram a.toNat v }
  | .ram | .romBasic | .romKernal | .romChar => { s with ram := Cells.write s.ram a.toNat v }
  | .vic => { s with vic := vicWrite s.vic t.offset v }
  | .sid => { s with sound := s.sound ++ [⟨0xD400 + BitVec.ofNat 16 t.offset, v, s.mcycle⟩] }
  | .color => { s with color := Cells.write s.color t.offset (v.extractLsb' 0 4) }
  | .cia1 => { s with cia1 := ciaWrite s.cia1 t.offset v }
  | .cia2 => { s with cia2 := ciaWrite s.cia2 t.offset v }
  | .io1 | .io2 => s

/-- `MemRead(a, 1)` (R14): the byte, and the state after the read's side effects. -/
def busRead (a : Word) (s : State) : Answer (Byte × State) :=
  andThen (regionOf s .read a.toNat) fun t => .next (targetValue s t, targetAfterRead s t)

/-- `MemWrite(a, 1, v)` (R14). The decode is the one in force before the write (R84). -/
def busWrite (a : Word) (v : Byte) (s : State) : Answer State :=
  andThen (regionOf s .write a.toNat) fun t => .next (targetWrite s a t v)

end Sys2Proof.Machine
end

