-- ==== Sys2Proof/Machine/Flags.lean ====
section
/-! DEFINITION. The flag byte (R47, R48) and every computation of a result and its flags that the rules of
files 42, 43 and 46 give: add, subtract, compare, shift, and the undocumented combinations. Each is a
function of the CPU and the datum alone; the bus cycles around it are Operands.lean's. -/

namespace Sys2Proof.Machine

/-- `P(b)` (R47): N V 1 b D I Z C. -/
def packP (b : Bool) (c : Cpu) : Byte :=
  BitVec.ofBool c.n ++ BitVec.ofBool c.v ++ (1 : BitVec 1) ++ BitVec.ofBool b ++ BitVec.ofBool c.d
    ++ BitVec.ofBool c.i ++ BitVec.ofBool c.z ++ BitVec.ofBool c.c

/-- The flags from a pulled byte (R48): bits 5 and 4 are discarded. -/
def unpackP (p : Byte) (c : Cpu) : Cpu :=
  { c with n := p.getLsbD 7, v := p.getLsbD 6, d := p.getLsbD 3, i := p.getLsbD 2, z := p.getLsbD 1
           c := p.getLsbD 0 }

/-- `N <- r[7]; Z <- (r == 0)`. -/
def setNZ (r : Byte) (c : Cpu) : Cpu := { c with n := r.getLsbD 7, z := r == 0 }

/-- A result into A, with its N and Z. -/
def loadA (r : Byte) (c : Cpu) : Cpu := setNZ r { c with a := r }

/-- A result into X, with its N and Z. -/
def loadX (r : Byte) (c : Cpu) : Cpu := setNZ r { c with x := r }

/-- A result into Y, with its N and Z. -/
def loadY (r : Byte) (c : Cpu) : Cpu := setNZ r { c with y := r }

/-! ## Add and subtract -/

/-- ADC, binary mode (R240). -/
def adcBinary (m : Byte) (c : Cpu) : Cpu :=
  let s := c.a.toNat + m.toNat + c.c.toNat
  let r := BitVec.ofNat 8 s
  { c with a := r, v := (~~~(c.a ^^^ m) &&& (c.a ^^^ r)).getLsbD 7, c := decide (s > 255)
           n := r.getLsbD 7, z := r == 0 }

/-- ADC, decimal mode, NMOS (R241): N and V from the intermediate `t`, Z from the binary sum, C from the
adjusted sum. -/
def adcDecimal (m : Byte) (c : Cpu) : Cpu :=
  let bin := BitVec.ofNat 8 (c.a.toNat + m.toNat + c.c.toNat)
  let low := (c.a.toNat &&& 0x0F) + (m.toNat &&& 0x0F) + c.c.toNat
  let low' := if low ≥ 0x0A then ((low + 0x06) &&& 0x0F) + 0x10 else low
  let t := (c.a.toNat &&& 0xF0) + (m.toNat &&& 0xF0) + low'
  let t' := if t ≥ 0xA0 then t + 0x60 else t
  { c with a := BitVec.ofNat 8 t', n := t.testBit 7
           v := (~~~(c.a ^^^ m) &&& (c.a ^^^ BitVec.ofNat 8 t)).getLsbD 7
           c := decide (t' ≥ 0x100), z := bin == 0 }

/-- ADC (R240, R241). -/
def adcOp (m : Byte) (c : Cpu) : Cpu := if c.d then adcDecimal m c else adcBinary m c

/-- SBC, binary mode (R242). -/
def sbcBinary (m : Byte) (c : Cpu) : Cpu :=
  let d : Int := c.a.toNat - m.toNat - (1 - c.c.toNat)
  let bin := BitVec.ofInt 8 d
  { c with a := bin, v := ((c.a ^^^ m) &&& (c.a ^^^ bin)).getLsbD 7, c := decide (d ≥ 0)
           n := bin.getLsbD 7, z := bin == 0 }

/-- The byte SBC leaves in A in decimal mode, NMOS (R243). `x and $0F` of a negative `x` is its low four
bits, `x % 16`. -/
def sbcDecimalResult (a m : Byte) (carry : Bool) : Byte :=
  let low : Int := (a.toNat &&& 0x0F : Nat) - (m.toNat &&& 0x0F : Nat) + carry.toNat - 1
  let low' := if low < 0 then (low - 0x06) % 16 - 0x10 else low
  let t : Int := (a.toNat &&& 0xF0 : Nat) - (m.toNat &&& 0xF0 : Nat) + low'
  let t' := if t < 0 then t - 0x60 else t
  BitVec.ofInt 8 t'

/-- SBC (R242, R243): in decimal mode the flags are the binary ones. -/
def sbcOp (m : Byte) (c : Cpu) : Cpu :=
  if c.d then { sbcBinary m c with a := sbcDecimalResult c.a m c.c } else sbcBinary m c

/-- Compare a register's value with `m` (R244): C, Z, N. -/
def compareOp (r m : Byte) (c : Cpu) : Cpu :=
  { c with c := decide (r.toNat ≥ m.toNat), z := r == m, n := (r - m).getLsbD 7 }

/-! ## Shifts: the result and the carry out, from the operand and the carry in -/

/-- ASL (R274). -/
def aslOp (v : Byte) (_carry : Bool) : Byte × Bool := (v <<< 1, v.getLsbD 7)

/-- LSR (R275). -/
def lsrOp (v : Byte) (_carry : Bool) : Byte × Bool := (v >>> 1, v.getLsbD 0)

/-- ROL (R276). -/
def rolOp (v : Byte) (carry : Bool) : Byte × Bool := ((v <<< 1) ||| BitVec.zeroExtend 8 (BitVec.ofBool carry), v.getLsbD 7)

/-- ROR (R277). -/
def rorOp (v : Byte) (carry : Bool) : Byte × Bool := ((v >>> 1) ||| (BitVec.zeroExtend 8 (BitVec.ofBool carry) <<< 7), v.getLsbD 0)

/-- BIT (R273). -/
def bitOp (m : Byte) (c : Cpu) : Cpu :=
  { c with n := m.getLsbD 7, v := m.getLsbD 6, z := c.a &&& m == 0 }

/-! ## Undocumented combinations -/

/-- LXA (R329) with the constant `magic`. -/
def lxaOp (magic b1 : Byte) (c : Cpu) : Cpu :=
  let v := (c.a ||| magic) &&& b1
  setNZ v { c with a := v, x := v }

/-- ANC (R330). -/
def ancOp (b1 : Byte) (c : Cpu) : Cpu :=
  let r := c.a &&& b1
  { loadA r c with c := r.getLsbD 7 }

/-- ALR (R331). -/
def alrOp (b1 : Byte) (c : Cpu) : Cpu :=
  let t := c.a &&& b1
  { c with a := t >>> 1, c := t.getLsbD 0, n := false, z := t >>> 1 == 0 }

/-- ARR, D = 0 (R332). -/
def arrBinary (b1 : Byte) (c : Cpu) : Cpu :=
  let r := (rorOp (c.a &&& b1) c.c).1
  { c with a := r, n := r.getLsbD 7, z := r == 0, c := r.getLsbD 6, v := r.getLsbD 6 ^^ r.getLsbD 5 }

/-- ARR, D = 1, NMOS (R332). -/
def arrDecimal (b1 : Byte) (c : Cpu) : Cpu :=
  let t := c.a &&& b1
  let r := (rorOp t c.c).1
  let r1 := if (t &&& 0x0F).toNat + (t &&& 0x01).toNat > 0x05 then (r &&& 0xF0) ||| ((r + 0x06) &&& 0x0F) else r
  let high : Bool := decide ((t &&& 0xF0).toNat + (t &&& 0x10).toNat > 0x50)
  let r2 := if high then (r1 &&& 0x0F) ||| ((r1 + 0x60) &&& 0xF0) else r1
  { c with a := r2, n := c.c, z := r == 0, v := (t ^^^ r).getLsbD 6, c := high }

/-- ARR (R332). -/
def arrOp (b1 : Byte) (c : Cpu) : Cpu := if c.d then arrDecimal b1 c else arrBinary b1 c

/-- ANE (R334) with the constant `magic`. -/
def aneOp (magic b1 : Byte) (c : Cpu) : Cpu := loadA ((c.a ||| magic) &&& c.x &&& b1) c

/-- SBX (R335). -/
def sbxOp (b1 : Byte) (c : Cpu) : Cpu :=
  let t := c.a &&& c.x
  { loadX (t - b1) c with c := decide (t.toNat ≥ b1.toNat) }

/-- LAS (R341). -/
def lasOp (m : Byte) (c : Cpu) : Cpu :=
  let v := m &&& c.sp
  setNZ v { c with a := v, x := v, sp := v }

end Sys2Proof.Machine
end

