-- ==== Sys2Proof/Machine/Ops.lean ====
section
/-! DEFINITION. The operations a CPU cycle is made of: the poll (R401), one bus access with the change of the
CPU that goes with it (R170), the stack (R15), taking an interrupt (R180, R409, R412, R414) and returning
from one (R179). A CPU cycle is one of these; it ends by moving to the next cycle of the instruction or to
the instruction boundary. -/

namespace Sys2Proof.Machine

/-- Change the CPU alone. -/
def mapCpu (f : Cpu → Cpu) (s : State) : State := { s with cpu := f s.cpu }

/-- The next CPU cycle is the next one of the same instruction or sequence. -/
def nextCycle (s : State) : State := mapCpu (fun c => { c with t := c.t + 1 }) s

/-- The instruction or sequence has ended: the next CPU cycle is a T1 (R509 `at_boundary`). -/
def endInstr (s : State) : State := mapCpu (fun c => { c with seq := .boundary, t := 1 }) s

/-- The poll (R401 (2)): the IRQ latch masked by I, and the NMI edge latch, as they stand before the cycle's
own access and commit. -/
def poll (s : State) : State :=
  mapCpu (fun c => { c with pollIrq := c.irqLatch && !c.i, pollNmi := c.nmiPending }) s

/-- A sequence or BRK has ended: no poll was made in it, and the next CPU cycle fetches the opcode at the new PC
unconditionally (R413; DEDUCED, log entry 13). -/
def enterHandler (s : State) : State := mapCpu (fun c => { c with seq := .handler, t := 1 }) s

/-- A cycle that reads `a` and goes on with the byte (R170). -/
def readCycle (a : Word) (k : Byte → State → State) (s : State) : Answer State :=
  andThen (busRead a s) fun r => .next (k r.1 r.2)

/-- A cycle that writes `v` to `a` and goes on (R170). -/
def writeCycle (a : Word) (v : Byte) (k : State → State) (s : State) : Answer State :=
  andThen (busWrite a v s) fun s' => .next (k s')

/-- A dummy read (R133): the byte is discarded, the side effects are real. -/
def dummyRead (a : Word) (s : State) : Answer State := readCycle a (fun _ => nextCycle) s

/-- The last cycle of an instruction that ends in a read: poll, read, operate, end (R401 (3), R187). -/
def lastRead (a : Word) (op : Byte → Cpu → Cpu) (s : State) : Answer State :=
  readCycle a (fun v s' => endInstr (mapCpu (op v) s')) (poll s)

/-- The last cycle of an instruction that ends in a write: poll, write, change the CPU, end. -/
def lastWrite (a : Word) (v : Byte) (op : Cpu → Cpu) (s : State) : Answer State :=
  writeCycle a v (fun s' => endInstr (mapCpu op s')) (poll s)

/-! ## The stack (R15, R43) -/

/-- `S-`. -/
def decSp (c : Cpu) : Cpu := { c with sp := c.sp - 1 }

/-- `S+`. -/
def incSp (c : Cpu) : Cpu := { c with sp := c.sp + 1 }

/-- A cycle that pushes `v`: `W $0100|S <- v; S-`. -/
def pushCycle (v : Byte) (k : State → State) (s : State) : Answer State :=
  writeCycle (stackAddr s.cpu.sp) v (fun s' => k (mapCpu decSp s')) s

/-- A dummy read of the stack followed by `S+` (R176, R178, R179). -/
def stackBump (s : State) : Answer State :=
  readCycle (stackAddr s.cpu.sp) (fun _ s' => nextCycle (mapCpu incSp s')) s

/-! ## Taking an interrupt -/

/-- Vector selection in T5 of an IRQ sequence or of BRK (R412): a pending NMI takes the vector over. -/
def selectVector (s : State) : Word := if s.cpu.nmiPending then s.params.vecNmi else s.params.vecIrq

/-- T6: the vector's low byte has been read; I is set, and the NMI edge is cleared if this is `VEC_NMI`
(R180, R409). -/
def vectorLow (vecNmi : Word) (v : Byte) (c : Cpu) : Cpu :=
  { c with data := v, i := true, nmiPending := if c.ea = vecNmi then false else c.nmiPending }

/-- T3 to T7 of BRK, of the IRQ and of the NMI sequence, the one entry of them all (R180, R409, R410): PC
high, PC low and `P(b)` pushed, the vector chosen, I set, PC loaded from the vector. No poll (R413); D is not
changed. `vec` chooses the vector in T5, where it is latched. -/
def entryCycle (b : Bool) (vec : State → Word) (s : State) : Answer State :=
  match s.cpu.t with
  | 3 => pushCycle (hi s.cpu.pc) nextCycle s
  | 4 => pushCycle (lo s.cpu.pc) nextCycle s
  | 5 => pushCycle (packP b s.cpu) (fun s' => nextCycle (mapCpu (fun c => { c with ea := vec s }) s')) s
  | 6 => readCycle s.cpu.ea (fun v s' => nextCycle (mapCpu (vectorLow s.params.vecNmi v) s')) s
  | _ => readCycle (s.cpu.ea + 1)
      (fun v s' => enterHandler (mapCpu (fun c => { c with pc := cat v c.data }) s')) s

/-- A cycle of the IRQ or NMI sequence (R409): two dummy reads of PC, then the entry. The NMI sequence always
takes `VEC_NMI` (R412). -/
def interruptCycle (vec : State → Word) (s : State) : Answer State :=
  if s.cpu.t ≤ 2 then dummyRead s.cpu.pc s else entryCycle false vec s

/-- A cycle of the reset sequence (R414): two dummy reads of PC, three of the stack with S decremented, then
the vector. It writes nothing to memory. -/
def resetCycle (s : State) : Answer State :=
  match s.cpu.t with
  | 1 | 2 => dummyRead s.cpu.pc s
  | 3 | 4 | 5 => readCycle (stackAddr s.cpu.sp) (fun _ s' => nextCycle (mapCpu decSp s')) s
  | 6 => readCycle s.params.vecReset
      (fun v s' => nextCycle (mapCpu (fun c => { c with data := v, i := true }) s')) s
  | _ => readCycle (s.params.vecReset + 1)
      (fun v s' => enterHandler (mapCpu (fun c => { c with pc := cat v c.data }) s')) s

/-! ## Returning from one -/

/-- A cycle of the return from an interrupt, T2 to T6 of RTI (R179, R419): the flags, then PC, are pulled;
the I restored in T4 is in force for the poll of T6 (R407). -/
def returnCycle (s : State) : Answer State :=
  match s.cpu.t with
  | 2 => dummyRead s.cpu.pc s
  | 3 => stackBump s
  | 4 => readCycle (stackAddr s.cpu.sp) (fun v s' => nextCycle (mapCpu (fun c => incSp (unpackP v c)) s')) s
  | 5 => readCycle (stackAddr s.cpu.sp)
      (fun v s' => nextCycle (mapCpu (fun c => incSp { c with data := v }) s')) s
  | _ => lastRead (stackAddr s.cpu.sp) (fun v c => { c with pc := cat v c.data }) s

/-! ## The machine reset (R415, R505) -/

/-- The effect of the reset input: the CPU, the port, the VIC and both CIAs are reset; RAM, colour RAM, the
ROMs, `mcycle` and what the host holds are not. -/
def applyReset (s : State) : State :=
  { s with cpu := applyCpuReset s.cpu, ddr := 0, port := 0, vic := vicReset, cia1 := ciaReset, cia2 := ciaReset }

end Sys2Proof.Machine
end

