-- ==== Sys2Proof/Machine/Operands.lean ====
section
/-! DEFINITION. Every operand form as the cycles of its template (R162 to R169, R172 to R175 of
30_encoding.md). The operand bytes have been fetched (Cycle.lean); a memory form then has its lead cycles
(dummy and pointer reads) and, from its datum cycle on, those of a read, a write or a read-modify-write. -/

namespace Sys2Proof.Machine

/-! ## Addresses -/

/-- The index the form adds to its base: X, Y, or none. -/
def indexOf (m : Mem) (c : Cpu) : Byte :=
  match m with
  | .zpX _ | .absX _ | .indX _ => c.x
  | .zpY _ | .absY _ | .indY _ => c.y
  | .zp _ | .abs _ => 0

/-- The 16-bit base of an indexed form before indexing (R166, R168): the operand word, or for `(zp),Y` the
pointer latched in `base`. -/
def baseOf (m : Mem) (c : Cpu) : Word :=
  match m with
  | .abs w | .absX w | .absY w => w
  | .indY _ => c.base
  | .zp b | .zpX b | .zpY b | .indX b => zext16 b

/-- The effective address (R163 to R168). For `(zp,X)` it is the pointer latched in `ea`. -/
def effAddr (m : Mem) (c : Cpu) : Word :=
  match m with
  | .zp b => zext16 b
  | .zpX b | .zpY b => zext16 (b + indexOf m c)
  | .abs w => w
  | .absX _ | .absY _ | .indY _ => baseOf m c + zext16 (indexOf m c)
  | .indX _ => c.ea

/-- The address with the high byte not yet corrected (R166, R168). -/
def partialAddr (m : Mem) (c : Cpu) : Word := cat (hi (baseOf m c)) (lo (baseOf m c) + indexOf m c)

/-- `crossed` (R166, R168): the index carries into the high byte. -/
def crosses (m : Mem) (c : Cpu) : Bool :=
  match m with
  | .absX _ | .absY _ | .indY _ => decide ((lo (baseOf m c)).toNat + (indexOf m c).toNat > 255)
  | .zp _ | .zpX _ | .zpY _ | .abs _ | .indX _ => false

/-- The form corrects its high byte in a cycle of its own (R173 to R175). -/
def hasFixup (m : Mem) : Bool :=
  match m with
  | .absX _ | .absY _ | .indY _ => true
  | .zp _ | .zpX _ | .zpY _ | .abs _ | .indX _ => false

/-- The cycle of the datum's access, the fix-up cycle counted (R173 to R175). -/
def datumCycle (m : Mem) : Nat :=
  match m with
  | .zp _ => 3
  | .zpX _ | .zpY _ | .abs _ => 4
  | .absX _ | .absY _ => 5
  | .indX _ | .indY _ => 6

/-! ## Lead cycles -/

/-- The fix-up cycle: a dummy read at the partial address (R133), with the crossing latched. -/
def fixupCycle (m : Mem) (s : State) : Answer State :=
  readCycle (partialAddr m s.cpu)
    (fun _ s' => nextCycle (mapCpu (fun c => { c with ea := effAddr m c, crossed := crosses m c }) s')) s

/-- A cycle before the datum's (R173): the dummy read of `zext(b1)`, the pointer reads, the fix-up. -/
def leadCycle (m : Mem) (s : State) : Answer State :=
  match m with
  | .zp _ | .abs _ => .next (nextCycle s)
  | .zpX b | .zpY b => dummyRead (zext16 b) s
  | .absX _ | .absY _ => fixupCycle m s
  | .indX b =>
    match s.cpu.t with
    | 3 => dummyRead (zext16 b) s
    | 4 => readCycle (zext16 (b + s.cpu.x))
        (fun v s' => nextCycle (mapCpu (fun c => { c with ea := zext16 v }) s')) s
    | _ => readCycle (zext16 (b + s.cpu.x + 1))
        (fun v s' => nextCycle (mapCpu (fun c => { c with ea := cat v (lo c.ea) }) s')) s
  | .indY b =>
    match s.cpu.t with
    | 3 => readCycle (zext16 b)
        (fun v s' => nextCycle (mapCpu (fun c => { c with base := zext16 v }) s')) s
    | 4 => readCycle (zext16 (b + 1))
        (fun v s' => nextCycle (mapCpu (fun c => { c with base := cat v (lo c.base) }) s')) s
    | _ => fixupCycle m s

/-! ## Templates -/

/-- This is the last cycle of a read (R173): the datum's, or the fix-up cycle of an index that does not
cross. -/
def readsDatum (m : Mem) (s : State) : Bool :=
  decide (datumCycle m ≤ s.cpu.t) || (decide (datumCycle m ≤ s.cpu.t + 1) && hasFixup m && !crosses m s.cpu)

/-- A cycle of a read instruction (R173). -/
def readMem (m : Mem) (op : Byte → Cpu → Cpu) (s : State) : Answer State :=
  if readsDatum m s then lastRead (effAddr m s.cpu) op s else leadCycle m s

/-- A cycle of a write instruction (R175). -/
def writeMem (m : Mem) (value : Cpu → Byte) (s : State) : Answer State :=
  if datumCycle m ≤ s.cpu.t then lastWrite (effAddr m s.cpu) (value s.cpu) id s else leadCycle m s

/-- A cycle of a read-modify-write instruction (R174): the datum is read, written back unchanged while
`operate` computes the result and changes the CPU, then the result is written and `final` runs (R320). -/
def rmwMem (m : Mem) (operate : Byte → Cpu → Byte × Cpu) (final : Byte → Cpu → Cpu) (s : State) : Answer State :=
  if s.cpu.t < datumCycle m then leadCycle m s
  else if s.cpu.t = datumCycle m then
    readCycle (effAddr m s.cpu) (fun v s' => nextCycle (mapCpu (fun c => { c with data := v }) s')) s
  else if s.cpu.t = datumCycle m + 1 then
    writeCycle (effAddr m s.cpu) s.cpu.data
      (fun s' => nextCycle (mapCpu (fun c => { (operate c.data c).2 with data := (operate c.data c).1 }) s')) s
  else lastWrite (effAddr m s.cpu) s.cpu.data (final s.cpu.data) s

/-- The value SHA, SHX, SHY or TAS stores (R343): the register and the base's high byte plus one. -/
def unstableValue (m : Mem) (r : Byte) (c : Cpu) : Byte := r &&& (hi (baseOf m c) + 1)

/-- The address it is stored at (R343): the value replaces the high byte if the index crosses. -/
def unstableAddr (m : Mem) (r : Byte) (c : Cpu) : Word :=
  if crosses m c then cat (unstableValue m r c) (lo (effAddr m c)) else effAddr m c

/-- A cycle of SHA, SHX, SHY or TAS (R175, R343). `after` is TAS's write of S. -/
def unstableStore (m : Mem) (reg : Cpu → Byte) (after : Cpu → Cpu) (s : State) : Answer State :=
  if datumCycle m ≤ s.cpu.t then
    lastWrite (unstableAddr m (reg s.cpu) s.cpu) (unstableValue m (reg s.cpu) s.cpu) after s
  else leadCycle m s

/-- The operate cycle of an immediate instruction: its byte has been fetched in this same cycle (R172). -/
def immediate (op : Byte → Cpu → Cpu) (v : Byte) (s : State) : Answer State := .next (endInstr (mapCpu (op v) s))

/-- A cycle of an instruction that reads its source (R172, R173). -/
def readSrc (o : Src) (op : Byte → Cpu → Cpu) (s : State) : Answer State :=
  match o with
  | .imm v => immediate op v s
  | .mem m => readMem m op s

/-- The one cycle after the fetch of an implied or accumulator instruction (R172): poll, dummy read of PC,
operate. -/
def implied (op : Cpu → Cpu) (s : State) : Answer State := lastRead s.cpu.pc (fun _ => op) s

/-- A shift's result and flags (R274 to R277). -/
def shifted (f : Byte → Bool → Byte × Bool) (v : Byte) (c : Cpu) : Byte × Cpu :=
  ((f v c.c).1, setNZ (f v c.c).1 { c with c := (f v c.c).2 })

/-- A cycle of a shift or rotate (R172, R174). -/
def shiftDst (d : Dst) (f : Byte → Bool → Byte × Bool) (s : State) : Answer State :=
  match d with
  | .acc => implied (fun c => { (shifted f c.a c).2 with a := (shifted f c.a c).1 }) s
  | .mem m => rmwMem m (shifted f) (fun _ c => c) s

/-- A cycle of a combined read-modify-write (R320): the shift's carry at the first write, then the second
operation with the final write (DEDUCED, log entry 15). -/
def shiftThen (m : Mem) (f : Byte → Bool → Byte × Bool) (final : Byte → Cpu → Cpu) (s : State) : Answer State :=
  rmwMem m (fun v c => ((f v c.c).1, { c with c := (f v c.c).2 })) final s

/-- A cycle of a conditional branch (R183, R171, R295): the condition in T2, the target's low byte in T3, its
high byte in T4 if it crosses; polls in T2 (Cycle.lean) and T4 (R408). -/
def branch (taken : Cpu → Bool) (off : Byte) (s : State) : Answer State :=
  if s.cpu.t ≤ 2 then
    if taken s.cpu then
      let target := s.cpu.pc + sext16 off
      .next (nextCycle (mapCpu (fun c =>
        { c with taken := true, ea := target, crossed := hi target != hi c.pc }) s))
    else .next (endInstr (mapCpu (fun c => { c with taken := false }) s))
  else if s.cpu.t = 3 then
    readCycle s.cpu.pc (fun _ s' =>
      let s'' := mapCpu (fun c => { c with pc := cat (hi c.pc) (lo c.ea) }) s'
      if s.cpu.crossed then nextCycle s'' else endInstr s'') s
  else lastRead s.cpu.pc (fun _ c => { c with pc := c.ea }) s

end Sys2Proof.Machine
end

