-- ==== Sys2Proof/Machine/Arith.lean ====
section
/-! DEFINITION. Arithmetic, compare, increment and decrement (42_arithmetic.md, R240 to R252). -/

namespace Sys2Proof.Machine

/-- ADC (R240, R241). -/
def execAdc (o : Src) (s : State) : Answer State := readSrc o adcOp s

/-- SBC (R242, R243). -/
def execSbc (o : Src) (s : State) : Answer State := readSrc o sbcOp s

/-- CMP (R244). -/
def execCmp (o : Src) (s : State) : Answer State := readSrc o (fun m c => compareOp c.a m c) s

/-- CPX (R245). -/
def execCpx (o : Src) (s : State) : Answer State := readSrc o (fun m c => compareOp c.x m c) s

/-- CPY (R246). -/
def execCpy (o : Src) (s : State) : Answer State := readSrc o (fun m c => compareOp c.y m c) s

/-- INC (R247). -/
def execInc (m : Mem) (s : State) : Answer State :=
  rmwMem m (fun v c => (v + 1, setNZ (v + 1) c)) (fun _ c => c) s

/-- DEC (R248). -/
def execDec (m : Mem) (s : State) : Answer State :=
  rmwMem m (fun v c => (v - 1, setNZ (v - 1) c)) (fun _ c => c) s

/-- INX (R249). -/
def execInx (s : State) : Answer State := implied (fun c => loadX (c.x + 1) c) s

/-- INY (R250). -/
def execIny (s : State) : Answer State := implied (fun c => loadY (c.y + 1) c) s

/-- DEX (R251). -/
def execDex (s : State) : Answer State := implied (fun c => loadX (c.x - 1) c) s

/-- DEY (R252). -/
def execDey (s : State) : Answer State := implied (fun c => loadY (c.y - 1) c) s

end Sys2Proof.Machine
end

