-- ==== Sys2Proof/Machine/Control.lean ====
section
/-! DEFINITION. Jumps, subroutines, returns, BRK and branches (44_control.md, R290 to R304). -/

namespace Sys2Proof.Machine

/-- JMP (R290, R181, R182). The absolute form ends in the cycle that fetches its second operand byte; the
indirect form reads both pointer bytes from one page (R169). -/
def execJmp (j : JumpTo) (s : State) : Answer State :=
  match j with
  | .abs w => .next (endInstr (mapCpu (fun c => { c with pc := w }) s))
  | .ind w =>
    if s.cpu.t ≤ 4 then readCycle w (fun v s' => nextCycle (mapCpu (fun c => { c with data := v }) s')) s
    else lastRead (cat (hi w) (lo w + 1)) (fun v c => { c with pc := cat v c.data }) s

/-- JSR (R291, R177): PC is the address of its last byte when it is pushed; T6 fetches that byte (Cycle.lean),
so a push that overwrites it is seen. -/
def execJsr (w : Word) (s : State) : Answer State :=
  match s.cpu.t with
  | 3 => dummyRead (stackAddr s.cpu.sp) s
  | 4 => pushCycle (hi s.cpu.pc) nextCycle s
  | 5 => pushCycle (lo s.cpu.pc) nextCycle s
  | _ => .next (endInstr (mapCpu (fun c => { c with pc := w }) s))

/-- RTS (R292, R178). -/
def execRts (s : State) : Answer State :=
  match s.cpu.t with
  | 2 => dummyRead s.cpu.pc s
  | 3 => stackBump s
  | 4 => readCycle (stackAddr s.cpu.sp)
      (fun v s' => nextCycle (mapCpu (fun c => incSp { c with data := v }) s')) s
  | 5 => readCycle (stackAddr s.cpu.sp)
      (fun v s' => nextCycle (mapCpu (fun c => { c with pc := cat v c.data }) s')) s
  | _ => lastRead s.cpu.pc (fun _ c => { c with pc := c.pc + 1 }) s

/-- RTI (R293, R179). -/
def execRti (s : State) : Answer State := returnCycle s

/-- BRK (R294, R180): the signature byte is skipped, then the common entry with B = 1. -/
def execBrk (s : State) : Answer State :=
  if s.cpu.t ≤ 2 then readCycle s.cpu.pc (fun _ s' => nextCycle (mapCpu (fun c => { c with pc := c.pc + 1 }) s')) s
  else entryCycle true selectVector s

/-- BPL (R296). -/
def execBpl (off : Byte) (s : State) : Answer State := branch (fun c => !c.n) off s

/-- BMI (R297). -/
def execBmi (off : Byte) (s : State) : Answer State := branch (fun c => c.n) off s

/-- BVC (R298). -/
def execBvc (off : Byte) (s : State) : Answer State := branch (fun c => !c.v) off s

/-- BVS (R299). -/
def execBvs (off : Byte) (s : State) : Answer State := branch (fun c => c.v) off s

/-- BCC (R300). -/
def execBcc (off : Byte) (s : State) : Answer State := branch (fun c => !c.c) off s

/-- BCS (R301). -/
def execBcs (off : Byte) (s : State) : Answer State := branch (fun c => c.c) off s

/-- BNE (R302). -/
def execBne (off : Byte) (s : State) : Answer State := branch (fun c => !c.z) off s

/-- BEQ (R303). -/
def execBeq (off : Byte) (s : State) : Answer State := branch (fun c => c.z) off s

end Sys2Proof.Machine
end

