-- ==== Sys2Proof/Machine/FlagOps.lean ====
section
/-! DEFINITION. Flag instructions and NOP (45_flags_nop.md, R310 to R317; the undocumented NOPs, R342). -/

namespace Sys2Proof.Machine

/-- CLC (R310). -/
def execClc (s : State) : Answer State := implied (fun c => { c with c := false }) s

/-- SEC (R311). -/
def execSec (s : State) : Answer State := implied (fun c => { c with c := true }) s

/-- CLI (R312). -/
def execCli (s : State) : Answer State := implied (fun c => { c with i := false }) s

/-- SEI (R313). -/
def execSei (s : State) : Answer State := implied (fun c => { c with i := true }) s

/-- CLD (R314). -/
def execCld (s : State) : Answer State := implied (fun c => { c with d := false }) s

/-- SED (R315). -/
def execSed (s : State) : Answer State := implied (fun c => { c with d := true }) s

/-- CLV (R316). -/
def execClv (s : State) : Answer State := implied (fun c => { c with v := false }) s

/-- NOP (R317, R342): the reads of its mode, with their side effects, and nothing else. -/
def execNop (n : NopArg) (s : State) : Answer State :=
  match n with
  | .implied => implied id s
  | .imm v => immediate (fun _ c => c) v s
  | .mem m => readMem m (fun _ c => c) s

end Sys2Proof.Machine
end

