-- ==== Sys2Proof/Machine/LoadStore.lean ====
section
/-! DEFINITION. Loads, stores and register transfers (40_load_store_transfer.md, R200 to R212): each meaning is
one CPU cycle of the instruction, its operand bytes fetched. -/

namespace Sys2Proof.Machine

/-- LDA (R201). -/
def execLda (o : Src) (s : State) : Answer State := readSrc o loadA s

/-- LDX (R202). -/
def execLdx (o : Src) (s : State) : Answer State := readSrc o loadX s

/-- LDY (R203). -/
def execLdy (o : Src) (s : State) : Answer State := readSrc o loadY s

/-- STA (R204). -/
def execSta (m : Mem) (s : State) : Answer State := writeMem m (fun c => c.a) s

/-- STX (R205). -/
def execStx (m : Mem) (s : State) : Answer State := writeMem m (fun c => c.x) s

/-- STY (R206). -/
def execSty (m : Mem) (s : State) : Answer State := writeMem m (fun c => c.y) s

/-- TAX (R207). -/
def execTax (s : State) : Answer State := implied (fun c => loadX c.a c) s

/-- TAY (R208). -/
def execTay (s : State) : Answer State := implied (fun c => loadY c.a c) s

/-- TXA (R209). -/
def execTxa (s : State) : Answer State := implied (fun c => loadA c.x c) s

/-- TYA (R210). -/
def execTya (s : State) : Answer State := implied (fun c => loadA c.y c) s

/-- TSX (R211). -/
def execTsx (s : State) : Answer State := implied (fun c => loadX c.sp c) s

/-- TXS (R212): no flag. -/
def execTxs (s : State) : Answer State := implied (fun c => { c with sp := c.x }) s

end Sys2Proof.Machine
end

