-- ==== Sys2Proof/Machine/Logic.lean ====
section
/-! DEFINITION. Logical, bit-test, shift and rotate instructions (43_logic_shift.md, R270 to R277). -/

namespace Sys2Proof.Machine

/-- AND (R270). -/
def execAnd (o : Src) (s : State) : Answer State := readSrc o (fun m c => loadA (c.a &&& m) c) s

/-- ORA (R271). -/
def execOra (o : Src) (s : State) : Answer State := readSrc o (fun m c => loadA (c.a ||| m) c) s

/-- EOR (R272). -/
def execEor (o : Src) (s : State) : Answer State := readSrc o (fun m c => loadA (c.a ^^^ m) c) s

/-- BIT (R273). -/
def execBit (m : Mem) (s : State) : Answer State := readMem m bitOp s

/-- ASL (R274). -/
def execAsl (d : Dst) (s : State) : Answer State := shiftDst d aslOp s

/-- LSR (R275). -/
def execLsr (d : Dst) (s : State) : Answer State := shiftDst d lsrOp s

/-- ROL (R276). -/
def execRol (d : Dst) (s : State) : Answer State := shiftDst d rolOp s

/-- ROR (R277). -/
def execRor (d : Dst) (s : State) : Answer State := shiftDst d rorOp s

end Sys2Proof.Machine
end

