-- ==== Sys2Proof/Machine/Stack.lean ====
section
/-! DEFINITION. Stack instructions (41_stack.md, R230 to R233). -/

namespace Sys2Proof.Machine

/-- PHA (R230, R176). -/
def execPha (s : State) : Answer State :=
  if s.cpu.t ≤ 2 then dummyRead s.cpu.pc s else pushCycle s.cpu.a endInstr (poll s)

/-- PHP (R231, R176): bits 5 and 4 of the pushed byte are 1. -/
def execPhp (s : State) : Answer State :=
  if s.cpu.t ≤ 2 then dummyRead s.cpu.pc s else pushCycle (packP true s.cpu) endInstr (poll s)

/-- PLA (R232, R176). -/
def execPla (s : State) : Answer State :=
  match s.cpu.t with
  | 2 => dummyRead s.cpu.pc s
  | 3 => stackBump s
  | _ => lastRead (stackAddr s.cpu.sp) loadA s

/-- PLP (R233, R176): I is written after this cycle's own poll (R406). -/
def execPlp (s : State) : Answer State :=
  match s.cpu.t with
  | 2 => dummyRead s.cpu.pc s
  | 3 => stackBump s
  | _ => lastRead (stackAddr s.cpu.sp) unpackP s

end Sys2Proof.Machine
end

