-- ==== Sys2Proof/Machine/Undocumented.lean ====
section
/-! DEFINITION. Undocumented opcodes (46_undocumented.md, R320 to R343); the NOPs of R342 are FlagOps.lean's. -/

namespace Sys2Proof.Machine

/-- SLO (R321). -/
def execSlo (m : Mem) (s : State) : Answer State := shiftThen m aslOp (fun r c => loadA (c.a ||| r) c) s

/-- RLA (R322). -/
def execRla (m : Mem) (s : State) : Answer State := shiftThen m rolOp (fun r c => loadA (c.a &&& r) c) s

/-- SRE (R323). -/
def execSre (m : Mem) (s : State) : Answer State := shiftThen m lsrOp (fun r c => loadA (c.a ^^^ r) c) s

/-- RRA (R324): the carry out of the rotate is the carry into the add. -/
def execRra (m : Mem) (s : State) : Answer State := shiftThen m rorOp adcOp s

/-- DCP (R325). -/
def execDcp (m : Mem) (s : State) : Answer State :=
  rmwMem m (fun v c => (v - 1, c)) (fun r c => compareOp c.a r c) s

/-- ISC (R326). -/
def execIsc (m : Mem) (s : State) : Answer State := rmwMem m (fun v c => (v + 1, c)) sbcOp s

/-- SAX (R327). -/
def execSax (m : Mem) (s : State) : Answer State := writeMem m (fun c => c.a &&& c.x) s

/-- LAX (R328). -/
def execLax (m : Mem) (s : State) : Answer State := readMem m (fun v c => setNZ v { c with a := v, x := v }) s

/-- LXA (R329): its constant is a draw. -/
def execLxa (v : Byte) (s : State) : Answer State := immediate (lxaOp (nextDraw s)) v (drawn s)

/-- ANC (R330). -/
def execAnc (v : Byte) (s : State) : Answer State := immediate ancOp v s

/-- ALR (R331). -/
def execAlr (v : Byte) (s : State) : Answer State := immediate alrOp v s

/-- ARR (R332). -/
def execArr (v : Byte) (s : State) : Answer State := immediate arrOp v s

/-- ANE (R334): its constant is a draw. -/
def execAne (v : Byte) (s : State) : Answer State := immediate (aneOp (nextDraw s)) v (drawn s)

/-- SBX (R335). -/
def execSbx (v : Byte) (s : State) : Answer State := immediate sbxOp v s

/-- USBC (R336): SBC immediate. -/
def execUsbc (v : Byte) (s : State) : Answer State := immediate sbcOp v s

/-- JAM (R333, R186): the CPU halts; only a reset ends it. -/
def execJam (s : State) : Answer State := .next (mapCpu (fun c => { c with jammed := true }) s)

/-- SHA (R337, R343). -/
def execSha (m : Mem) (s : State) : Answer State := unstableStore m (fun c => c.a &&& c.x) id s

/-- SHX (R338, R343). -/
def execShx (m : Mem) (s : State) : Answer State := unstableStore m (fun c => c.x) id s

/-- SHY (R339, R343). -/
def execShy (m : Mem) (s : State) : Answer State := unstableStore m (fun c => c.y) id s

/-- TAS (R340, R343): S is written too. -/
def execTas (m : Mem) (s : State) : Answer State :=
  unstableStore m (fun c => c.a &&& c.x) (fun c => { c with sp := c.a &&& c.x }) s

/-- LAS (R341). -/
def execLas (m : Mem) (s : State) : Answer State := readMem m lasOp s

end Sys2Proof.Machine
end

