-- ==== Sys2Proof/Machine/Cycle.lean ====
section
/-! DEFINITION. The CPU cycle (R170) and the master cycle (R500): which sequence a boundary starts (R401),
the fetch of an opcode and of its operand bytes, the instruction's own cycles (`exec`), and around them the
stages of the VIC and the CIAs in the order of R500. -/

namespace Sys2Proof.Machine

/-- Which operand byte cycle `t` of an instruction fetches. -/
inductive Fetch where
  | first
  | second
deriving DecidableEq, Repr

/-- The operand fetches of a format (R160, R172 to R183): the first byte in T2, the second in T3, but for
JSR's second, in T6 (R177). -/
def fetchAt (op : Byte) (t : Nat) : Option Fetch :=
  if t = 2 ∧ 2 ≤ lengthOf op then some .first
  else if lengthOf op = 3 ∧ t = (if (rowOf op).1 = .jsr then 6 else 3) then some .second
  else none

/-- The instruction operates in the cycle that fetches its last byte, with no access of its own: immediate
and relative operands (R172, R183), JMP absolute (R181) and JSR's T6 (R177). -/
def operatesOnFetch (op : Byte) (t : Nat) : Bool :=
  match (rowOf op).2 with
  | .imm | .rel => t == 2
  | .abs => ((rowOf op).1 == .jmp && t == 3) || ((rowOf op).1 == .jsr && t == 6)
  | .imp | .acc | .zp | .zpx | .zpy | .abx | .aby | .ind | .izx | .izy => false

/-- The instruction that the latched opcode and operand bytes are (DEDUCED, log entry 14). -/
def latchedInstr (op : Byte) (c : Cpu) : Instr := instrOf op c.ptr (hi c.base)

/-- Latch a fetched operand byte: the first in `ptr`, the second with it in `base`. -/
def latchOperand (f : Fetch) (v : Byte) (c : Cpu) : Cpu :=
  match f with
  | .first => { c with ptr := v, pc := c.pc + 1 }
  | .second => { c with base := cat v c.ptr, pc := c.pc + 1 }

/-- A cycle that fetches an operand byte (`R PC -> b; PC+1`). If the instruction operates in it, this is its
last cycle or a branch's T2: it polls first (R401 (3), R408) and the meaning runs on the byte. -/
def operandCycle (op : Byte) (f : Fetch) (s : State) : Answer State :=
  if operatesOnFetch op s.cpu.t then
    andThen (busRead s.cpu.pc (poll s)) fun r =>
      let s' := mapCpu (latchOperand f r.1) r.2
      exec (latchedInstr op s'.cpu) s'
  else readCycle s.cpu.pc (fun v s' => nextCycle (mapCpu (latchOperand f v) s')) s

/-- A CPU cycle after T1 of the instruction with opcode `op`. -/
def instrCycle (op : Byte) (s : State) : Answer State :=
  match fetchAt op s.cpu.t with
  | some f => operandCycle op f s
  | none => exec (latchedInstr op s.cpu) s

/-- T1 of an instruction (R170): the opcode is fetched, PC moves on. JAM has no other cycle (R186). -/
def opcodeCycle (s : State) : Answer State :=
  andThen (busRead s.cpu.pc s) fun r =>
    let s' := mapCpu (fun c => { c with pc := c.pc + 1, seq := .instr r.1, t := 2 }) r.2
    if (rowOf r.1).1 = .jam then exec (latchedInstr r.1 s'.cpu) s' else .next s'

/-- Start an interrupt sequence at a boundary (R401 (4)). -/
def beginSeq (q : Seq) (s : State) : State := mapCpu (fun c => { c with seq := q, t := 1 }) s

/-- The next CPU cycle. At a boundary the most recent poll decides (R401 (4), R405): the NMI sequence, else the
IRQ sequence, else the next opcode. After a sequence or BRK no poll decides (R413). -/
def cpuCycle (s : State) : Answer State :=
  match s.cpu.seq with
  | .boundary =>
    if s.cpu.pollNmi then interruptCycle (fun s => s.params.vecNmi) (beginSeq .nmiSeq s)
    else if s.cpu.pollIrq then interruptCycle selectVector (beginSeq .irqSeq s)
    else opcodeCycle s
  | .handler => opcodeCycle s
  | .instr op => instrCycle op s
  | .irqSeq => interruptCycle selectVector s
  | .nmiSeq => interruptCycle (fun s => s.params.vecNmi) s
  | .resetSeq => resetCycle s

/-! ## The master cycle -/

/-- What the host supplies for the coming master cycle; nothing where the queue is empty. -/
def cycleIn (s : State) : CycleIn := s.inputs.headD cycleQuiet

/-- The state the master cycle starts from: the host's entry is taken from the queue, its held levels put in
force, and a reset it asks for, or one still pending, applied before the cycle (R505, R508). -/
def supplied (s : State) : State :=
  let s1 := { s with inputs := s.inputs.tail, host := (cycleIn s).held.getD s.host }
  if (cycleIn s).reset || s.cpu.resetPending then applyReset s1 else s1

/-- The model has a meaning for the state (R92): no cartridge, or a map of it. -/
def admitted (s : State) : Bool := (s.host.exrom && s.host.game) || s.host.cartMap.isSome

/-- The VIC as the stall of stage (a) sees it: the sprites switched on (R440). -/
def arbiterVic (s : State) : Vic := spriteSwitchOn s.params s.vic

/-- The stall request of the cycle (R442). -/
def stalls (s : State) : Bool := vicStall s.params (arbiterVic s)

/-- Stage (a) (R500, R450): snapshot, switch-on, and after the stall the countdown. -/
def stageA (s : State) : State :=
  { s with vic := spriteCountdown s.params (arbiterVic s), snapshot := snapshotOf s.mcycle s.vic }

/-- Stage (b) (R500, R478): CIA1, then CIA2. -/
def stageB (inp : CycleIn) (s : State) : State :=
  { s with cia1 := ciaStep inp.cia1 s.cia1, cia2 := ciaStep inp.cia2 s.cia2 }

/-- Stage (c) (R500, R450): raster compare, `den_seen`, the host's video events. -/
def stageC (inp : CycleIn) (s : State) : State :=
  { s with vic := lightPen inp.pen (collideMD inp.collideMD (collideMM inp.collideMM
      (denUpdate s.params (rasterCompare s.vic)))) }

/-- `IRQ_line` (R423). -/
def irqLine (s : State) : Bool := vicIrq s.vic || ciaIr s.cia1 || s.host.irqExt

/-- `NMI_line` (R424). -/
def nmiLine (s : State) : Bool := ciaIr s.cia2 || s.host.nmiExt

/-- Stage (e) (R500, R401 (1), R403): the IRQ latch and the NMI edge detector. -/
def stageE (s : State) : State :=
  mapCpu (fun c =>
    { c with irqLatch := irqLine s, nmiPending := c.nmiPending || (nmiLine s && !c.nmiPrev), nmiPrev := nmiLine s }) s

/-- Stage (f) (R500, R431, R432): the position advances, the end of a frame is signalled, `mcycle` counts. -/
def stageF (s : State) : State :=
  { s with vic := vicAdvance s.params s.vic
           frames := if frameEnds s.params s.vic then s.frames ++ [s.mcycle] else s.frames
           mcycle := s.mcycle + 1 }

/-- The stages before the CPU's. -/
def beforeCpu (inp : CycleIn) (s : State) : State := stageC inp (stageB inp (stageA s))

/-- The stages after the CPU's. -/
def afterCpu (s : State) : State := stageF (stageE s)

/-- Stage (d) (R500): the next CPU cycle, unless the cycle is stolen or the CPU is halted. -/
def stageD (stall : Bool) (s : State) : Answer State := if stall || s.cpu.jammed then .next s else cpuCycle s

/-- One master cycle (R500). -/
def masterCycle (s : State) : Answer State :=
  let s0 := supplied s
  if admitted s0 then
    andThen (stageD (stalls s0) (beforeCpu (cycleIn s) s0)) fun s' => .next (afterCpu s')
  else .refused .cartMapAbsent

end Sys2Proof.Machine
end

