-- ==== Sys2Proof/Machine/Loader.lean ====
section
/-! DEFINITION. What the host does to the machine outside a master cycle (R508): the load (R503), the reset
input (R505), changing a held level, and queueing inputs; and placing an instruction where the next one is
fetched. Saving and restoring is the state itself (R60). -/

namespace Sys2Proof.Machine

/-- Why a load is refused (R503): no machine is produced. The kinds are the model's (DESIGN CHOICE, log entry 37). -/
inductive ConfigError where
  | wrongBasic      -- the BASIC image is missing or not 8,192 bytes
  | wrongKernal     -- the KERNAL image is missing or not 8,192 bytes
  | wrongChar       -- the character image is missing or not 4,096 bytes
  | ramDoesNotFit   -- a RAM image runs past $FFFF
deriving DecidableEq, Repr

/-- What a load answers. -/
inductive Loaded where
  | machine (s : State)
  | error (e : ConfigError)
deriving DecidableEq, Repr

/-- The images the host supplies (R503). -/
structure Images where
  basic : List Byte
  kernal : List Byte
  char : List Byte
  ram : List (Nat × List Byte)
deriving DecidableEq, Repr

/-- A RAM image fits (R503). -/
def ramFits (r : Nat × List Byte) : Bool := decide (r.1 + r.2.length ≤ 65536)

/-- The load-time initialisation (R503, R504), with the parameters of R9: a machine with RESET asserted, or a
configuration error. Where several images are wrong the first of BASIC, KERNAL, character ROM, RAM is the
error returned (DESIGN CHOICE, log entry 37). RAM images are stored in the order given (DESIGN CHOICE, log entry 30). -/
def loadMachine (p : Params) (im : Images) : Loaded :=
  if im.basic.length ≠ 8192 then .error .wrongBasic
  else if im.kernal.length ≠ 8192 then .error .wrongKernal
  else if im.char.length ≠ 4096 then .error .wrongChar
  else if im.ram.all ramFits = false then .error .ramDoesNotFit
  else .machine
    { State.powerOn with
      params := p
      romBasic := Cells.writeAll [] 0 im.basic
      romKernal := Cells.writeAll [] 0 im.kernal
      romChar := Cells.writeAll [] 0 im.char
      ram := im.ram.foldl (fun m r => Cells.writeAll m r.1 r.2) [] }

/-- The reset input (R505, R50): taken before the next master cycle. -/
def hostReset (s : State) : State := mapCpu (fun c => { c with resetPending := true }) s

/-- The host changes what it holds (R508). -/
def hostHolds (h : Held) (s : State) : State := { s with host := h }

/-- The host queues its inputs of the coming master cycles (R508). -/
def hostQueues (q : List CycleIn) (s : State) : State := { s with inputs := s.inputs ++ q }

/-- The host takes the events it has been handed (R508). -/
def hostConsumes (s : State) : State := { s with sound := [], frames := [] }

/-- Address `a` reads RAM under the bank configuration in force. -/
def readsRam (s : State) (a : Word) : Bool :=
  match regionOf s .read a.toNat with
  | .next t => t.region == .ram
  | .fault _ => false
  | .refused _ => false

/-- Where `placeInstr` puts an instruction: at PC if its longest form reads RAM there, else at $0200, which
reads RAM in every configuration of R82. -/
def placeAt (s : State) : Word :=
  if readsRam s s.cpu.pc && readsRam s (s.cpu.pc + 1) && readsRam s (s.cpu.pc + 2) then s.cpu.pc else 0x0200

/-- The state with three bytes placed where the next instruction is fetched, and the CPU about to fetch it: at
the boundary where no poll decides (R413), not halted, no reset pending, PC at the bytes (DESIGN CHOICE, log
entry 17). -/
def placeInstr (b0 b1 b2 : Byte) (s : State) : State :=
  let a := placeAt s
  { s with
    ram := Cells.write (Cells.write (Cells.write s.ram a.toNat b0) (a + 1).toNat b1) (a + 2).toNat b2
    cpu := { s.cpu with pc := a, seq := .handler, t := 1, jammed := false, resetPending := false } }

end Sys2Proof.Machine
end

