-- ==== Sys2Proof/Machine/Step.lean ====
section
/-! DEFINITION. One step of the machine is one master cycle (R500, R502, R508). -/

namespace Sys2Proof.Machine

/-- The step of the CORE (R508): one master cycle. -/
def step : State → Host.Outcome State Fault Refusal := masterCycle

/-- `s` with the instruction whose bytes are `w`, numbered as spec/opcode_table.json numbers them, placed where
the next step fetches (DESIGN CHOICE, log entry 17): the next step is its T1, and the steps after it are its other
cycles. -/
def State.withFetchWord (s : State) (nbits w : Nat) : State :=
  placeInstr (BitVec.ofNat 8 (w % 2 ^ nbits)) (BitVec.ofNat 8 (w % 2 ^ nbits / 256))
    (BitVec.ofNat 8 (w % 2 ^ nbits / 65536)) s

end Sys2Proof.Machine
end

