-- ==== Sys2Proof/Safety.lean ====
section
/-! DEFINITION. The terms a claim about the machine is made in: the premises of R509 and the ends of a run of
R510 (70_reset_and_hazards.md), the published cycle counts of R188, what an instruction leaves unchanged, and
the invariants that every step keeps. -/

namespace Sys2Proof.Machine

/-! ## Runs -/

/-- `k` master cycles, stopping at a fault or a refusal. -/
def run : Nat → State → Answer State
  | 0, s => .next s
  | k + 1, s => andThen (step s) (run k)

/-- `k` CPU cycles, with no other stage of the master cycle between them. -/
def cpuRun : Nat → State → Answer State
  | 0, s => .next s
  | k + 1, s => andThen (cpuCycle s) (cpuRun k)

/-- `k` cycles of an instruction, with nothing between them. -/
def runExec (i : Instr) : Nat → State → Answer State
  | 0, s => .next s
  | k + 1, s => andThen (exec i s) (runExec i k)

/-- `P` holds now and before each of the next `k - 1` master cycles. -/
def HoldsFor (P : State → Prop) : Nat → State → Prop
  | 0, _ => True
  | k + 1, s => P s ∧ ∀ t, step s = .next t → HoldsFor P k t

/-! ## The premises of R509 -/

/-- No cartridge: `EXROM = GAME = 1` (R82). -/
abbrev NoCartridge (s : State) : Prop := s.host.exrom = true ∧ s.host.game = true

/-- The I/O window is mapped, without a cartridge (R82, R85). -/
abbrev IoMapped (s : State) : Prop :=
  NoCartridge s ∧ (bankConfig s).charen = true ∧ ((bankConfig s).loram = true ∨ (bankConfig s).hiram = true)

/-- `no_fault` (R509): no `InternalFault` and no refusal mark. A state carries neither, since a step that raises one
has no next state; what is left to say is that the state itself is not refused (R92; log entry 35). -/
abbrev NoFault (s : State) : Prop := admitted s = true

/-- No reset is applied before the coming master cycle (R505). -/
abbrev NoReset (s : State) : Prop := (cycleIn s).reset = false ∧ s.cpu.resetPending = false

/-- The CPU is between two instructions or sequences, and not halted. -/
abbrev Between (s : State) : Prop := (s.cpu.seq = .boundary ∨ s.cpu.seq = .handler) ∧ s.cpu.jammed = false

/-- Between two instructions, and no poll asks for a sequence (R401 (4)), or none is looked at (R413). -/
abbrev FetchNext (s : State) : Prop :=
  Between s ∧ (s.cpu.seq = .handler ∨ (s.cpu.pollNmi = false ∧ s.cpu.pollIrq = false))

/-- No reset comes before the next CPU cycle (R505): none before the coming master cycle, and, while the cycles are
stolen, none before the one after. -/
def NoResetAhead (s : State) : Prop :=
  ∀ k t, run k s = .next t → (∀ j u, j < k → run j s = .next u → stalls (supplied u) = true) → NoReset t

/-- `at_boundary` (R509): the next CPU cycle is an opcode fetch or the T1 of an interrupt sequence that R401 chooses,
so not the T1 of a reset. -/
def AtBoundary (s : State) : Prop := Between s ∧ NoResetAhead s

/-- The next CPU cycle is an opcode fetch (R401 (4), R510 (2)). -/
def AtFetch (s : State) : Prop := FetchNext s ∧ NoResetAhead s

/-- The first alternative of `no_interrupt` (R509): no source is enabled, no line held, no NMI pending. -/
abbrev NothingEnabled (s : State) : Prop :=
  s.host.irqExt = false ∧ s.host.nmiExt = false ∧ s.cpu.nmiPending = false ∧ s.cia1.icrMask = 0
    ∧ s.cia2.icrMask = 0 ∧ s.vic.irqEnable = 0

/-- The second: I is set, and no NMI can arise. -/
abbrev IrqMasked (s : State) : Prop :=
  s.cpu.i = true ∧ s.cpu.nmiPending = false ∧ s.cia2.icrMask = 0 ∧ s.host.nmiExt = false

/-- `no_interrupt(k)` (R509): one of the alternatives for the whole window. What the premise says of a master cycle is
taken as the cycle starts, with what the host supplies for it in force (DESIGN CHOICE, log entry 35). -/
def NoInterrupt (k : Nat) (s : State) : Prop :=
  HoldsFor (fun u => NothingEnabled (supplied u)) k s ∨ HoldsFor (fun u => IrqMasked (supplied u)) k s

/-- No badline and no sprite's DMA on in the coming master cycle, the sprites it switches on among them (R438,
R440). -/
abbrev Unclaimed (s : State) : Prop :=
  badline s.params (arbiterVic s) = false ∧ anySprite (fun _ x => x.dma) (arbiterVic s).sprites = false

/-- `no_steal(k)` (R509), each cycle taken as in `NoInterrupt`. -/
def NoSteal (k : Nat) (s : State) : Prop := HoldsFor (fun u => Unclaimed (supplied u)) k s

/-- `default_banks` (R509). -/
abbrev DefaultBanks (s : State) : Prop := s.ddr = 0x2F ∧ s.port = 0x37 ∧ NoCartridge s

/-- `all_ram_banks` (R509). -/
abbrev AllRamBanks (s : State) : Prop :=
  s.port.extractLsb' 0 3 = 0 ∧ s.ddr.extractLsb' 0 3 = 7 ∧ NoCartridge s

/-- `code_at(base, bytes)` (R509): RAM holds the bytes from `base` on, and is what is read there. -/
def CodeAt (base : Word) : List Byte → State → Prop
  | [], _ => True
  | b :: rest, s => readsRam s base = true ∧ Cells.read s.ram base.toNat = b ∧ CodeAt (base + 1) rest s

/-! ## The ends of a run (R510) -/

/-- `after(k)` (R510): the state that `k` master cycles make of the start state. No rule says what `mcycle0` is; the end
is taken where `mcycle` is the start state's plus `k` (DESIGN CHOICE, log entry 33). -/
def EndsAfter (k : Nat) (s t : State) : Prop := run k s = .next t

/-- `at_pc(addr)` (R510): the first boundary with `PC = addr` whose next CPU cycle is an opcode fetch. The start state
counts, if it is such a boundary (DESIGN CHOICE, log entry 34). -/
def EndsAtPc (addr : Word) (s t : State) : Prop :=
  ∃ k, run k s = .next t ∧ AtFetch t ∧ t.cpu.pc = addr
    ∧ ∀ j u, j < k → run j s = .next u → ¬ (AtFetch u ∧ u.cpu.pc = addr)

/-- `halted` (R510): the end of the first master cycle at whose end the CPU is jammed; the start state is the end of
none of the run's cycles. -/
def EndsHalted (s t : State) : Prop :=
  ∃ k, run (k + 1) s = .next t ∧ t.cpu.jammed = true
    ∧ ∀ j u, 0 < j → j < k + 1 → run j s = .next u → u.cpu.jammed = false

/-! ## Cycle counts (R188) -/

/-- The kinds of R188: the template family of an instruction. -/
inductive Kind where
  | read
  | write
  | rmw
  | push
  | pull
  | ret       -- JSR, RTS, RTI
  | brk
  | jmp
  | branch
  | jam
deriving DecidableEq, Repr

/-- The kind of a mnemonic (R172 to R186). -/
def Kind.of : Mnem → Kind
  | .lda | .ldx | .ldy | .adc | .sbc | .cmp | .cpx | .cpy | .and | .ora | .eor | .bit | .nop | .lax | .las
  | .lxa | .anc | .alr | .arr | .ane | .sbx | .usbc
  | .tax | .tay | .txa | .tya | .tsx | .txs | .inx | .iny | .dex | .dey
  | .clc | .sec | .cli | .sei | .cld | .sed | .clv => .read
  | .sta | .stx | .sty | .sax | .sha | .shx | .shy | .tas => .write
  | .inc | .dec | .asl | .lsr | .rol | .ror | .slo | .rla | .sre | .rra | .dcp | .isc => .rmw
  | .pha | .php => .push
  | .pla | .plp => .pull
  | .jsr | .rts | .rti => .ret
  | .brk => .brk
  | .jmp => .jmp
  | .bpl | .bmi | .bvc | .bvs | .bcc | .bcs | .bne | .beq => .branch
  | .jam => .jam

/-- The base cycles of a mode for an instruction of a template of R173 (`read`), R175 (`write`) or R174
(`rmw`). -/
def modeCycles (k : Kind) (md : Mode) : Nat :=
  match md with
  | .imp | .acc | .imm | .rel => 2
  | .zp => if k = .rmw then 5 else 3
  | .zpx | .zpy | .abs => if k = .rmw then 6 else 4
  | .ind => 5
  | .abx | .aby => if k = .rmw then 7 else if k = .write then 5 else 4
  | .izx => if k = .rmw then 8 else 6
  | .izy => if k = .rmw then 8 else if k = .write then 6 else 5

/-- The published base cycle count of an opcode (R188). -/
def baseCycles (op : Byte) : Nat :=
  match Kind.of (rowOf op).1 with
  | .push => 3
  | .pull => 4
  | .ret => 6
  | .brk => 7
  | .jmp => if (rowOf op).2 = .ind then 5 else 3
  | .branch => 2
  | .jam => 1
  | k => modeCycles k (rowOf op).2

/-- The most cycles an opcode's penalties add (R188): one for an index that crosses on a read, two for a
branch. -/
def extraCycles (op : Byte) : Nat :=
  match Kind.of (rowOf op).1, (rowOf op).2 with
  | .read, .abx | .read, .aby | .read, .izy => 1
  | .branch, _ => 2
  | _, _ => 0

/-! ## Frames -/

/-- The pieces of the CPU a frame may except: the registers and flags of R40, the NMI edge and the halt. -/
inductive Piece where
  | a | x | y | sp | pc | c | z | i | d | v | n | nmiPending | jammed
deriving DecidableEq, Repr

/-- From `c` to `d` every register, flag and interrupt latch is unchanged but those named. The sequencer's own
state (R49) and the polls (R50) are not part of a frame. -/
def Keeps (ws : List Piece) (c d : Cpu) : Prop :=
  (Piece.a ∉ ws → d.a = c.a) ∧ (Piece.x ∉ ws → d.x = c.x) ∧ (Piece.y ∉ ws → d.y = c.y)
    ∧ (Piece.sp ∉ ws → d.sp = c.sp) ∧ (Piece.pc ∉ ws → d.pc = c.pc)
    ∧ (Piece.c ∉ ws → d.c = c.c) ∧ (Piece.z ∉ ws → d.z = c.z) ∧ (Piece.i ∉ ws → d.i = c.i)
    ∧ (Piece.d ∉ ws → d.d = c.d) ∧ (Piece.v ∉ ws → d.v = c.v) ∧ (Piece.n ∉ ws → d.n = c.n)
    ∧ (Piece.nmiPending ∉ ws → d.nmiPending = c.nmiPending) ∧ (Piece.jammed ∉ ws → d.jammed = c.jammed)
    ∧ d.irqLatch = c.irqLatch ∧ d.nmiPrev = c.nmiPrev ∧ d.resetPending = c.resetPending

/-- What no bus access changes: the ROMs, the parameters, the host's side, the counter, the snapshot, the
frame events. -/
def SameFixed (s t : State) : Prop :=
  t.romBasic = s.romBasic ∧ t.romKernal = s.romKernal ∧ t.romChar = s.romChar ∧ t.params = s.params
    ∧ t.host = s.host ∧ t.inputs = s.inputs ∧ t.mcycle = s.mcycle ∧ t.snapshot = s.snapshot
    ∧ t.frames = s.frames

/-- A cycle that stores nothing (R131): every byte of RAM and every cell of colour RAM reads as before, the
port registers are the same, and of a device only the flags that a read clears may differ. -/
def StoresNothing (s t : State) : Prop :=
  (∀ a, Cells.read t.ram a = Cells.read s.ram a) ∧ (∀ k, Cells.read t.color k = Cells.read s.color k)
    ∧ t.ddr = s.ddr ∧ t.port = s.port ∧ t.sound = s.sound
    ∧ t.vic = { s.vic with collMM := t.vic.collMM, collMD := t.vic.collMD }
    ∧ t.cia1 = { s.cia1 with icrData := t.cia1.icrData } ∧ t.cia2 = { s.cia2 with icrData := t.cia2.icrData }
    ∧ SameFixed s t

/-- A cycle that stores a byte at `a` (R83, R132): every other byte of RAM reads as before, and the port
registers, a device, a colour RAM cell or the sound events change only if `a` decodes to them. -/
def StoresAt (a : Word) (s t : State) : Prop :=
  (∀ b, b ≠ a.toNat → Cells.read t.ram b = Cells.read s.ram b)
    ∧ ((∀ k, regionOf s .write a.toNat ≠ .next ⟨.port, k⟩) → t.ddr = s.ddr ∧ t.port = s.port)
    ∧ t.draws = s.draws
    ∧ (∀ k, regionOf s .write a.toNat ≠ .next ⟨.color, k⟩ → Cells.read t.color k = Cells.read s.color k)
    ∧ ((∀ k, regionOf s .write a.toNat ≠ .next ⟨.vic, k⟩) → t.vic = s.vic)
    ∧ ((∀ k, regionOf s .write a.toNat ≠ .next ⟨.cia1, k⟩) → t.cia1 = s.cia1)
    ∧ ((∀ k, regionOf s .write a.toNat ≠ .next ⟨.cia2, k⟩) → t.cia2 = s.cia2)
    ∧ ((∀ k, regionOf s .write a.toNat ≠ .next ⟨.sid, k⟩) → t.sound = s.sound)
    ∧ SameFixed s t

/-! ## VIC registers -/

/-- The bits of a VIC register cell that read as 1 (R430). -/
def vicOnes (off : Nat) : Byte :=
  if off = 0x16 then 0xC0 else if off = 0x18 then 0x01 else if 0x20 ≤ off then 0xF0 else 0x00

/-! ## Invariants -/

/-- Every storage keeps its canonical form (R54, R430). -/
abbrev StorageOk (s : State) : Prop :=
  Memory.wf s.ram ∧ Cells.wf 1024 s.color = true ∧ Cells.wf 8192 s.romBasic = true
    ∧ Cells.wf 8192 s.romKernal = true ∧ Cells.wf 4096 s.romChar = true ∧ Cells.wf 0x2F s.vic.cells = true

/-- The LOAD bit of a control register reads 0 (R469). -/
abbrev ControlOk (c : Cia) : Prop := c.cra.getLsbD 4 = false ∧ c.crb.getLsbD 4 = false

/-- The raster position is one of the frame (R431), the frame having a position and fitting `raster_line`. -/
abbrev PositionOk (s : State) : Prop :=
  0 < s.params.lines ∧ s.params.lines ≤ 512 ∧ 0 < s.params.cpl
    ∧ s.vic.line.toNat < s.params.lines ∧ s.vic.cyc < s.params.cpl

/-- Sprite `n`, 0 to 7; the last for any other number. -/
def spriteAt (p : Sprites) (n : Nat) : Sprite :=
  match n with
  | 0 => p.s0
  | 1 => p.s1
  | 2 => p.s2
  | 3 => p.s3
  | 4 => p.s4
  | 5 => p.s5
  | 6 => p.s6
  | _ => p.s7

/-- A sprite's DMA is on exactly while it has rounds left (R440, R441), and never more than a switch-on gives. -/
abbrev SpriteOk (p : Params) (x : Sprite) : Prop :=
  x.dma = decide (x.left ≠ 0) ∧ x.left ≤ max p.spriteRounds p.spriteRoundsYExp

/-- All eight sprites (R55), the parameters giving at least one round. -/
abbrev SpritesOk (s : State) : Prop :=
  0 < s.params.spriteRounds ∧ 0 < s.params.spriteRoundsYExp
    ∧ SpriteOk s.params s.vic.sprites.s0 ∧ SpriteOk s.params s.vic.sprites.s1
    ∧ SpriteOk s.params s.vic.sprites.s2 ∧ SpriteOk s.params s.vic.sprites.s3
    ∧ SpriteOk s.params s.vic.sprites.s4 ∧ SpriteOk s.params s.vic.sprites.s5
    ∧ SpriteOk s.params s.vic.sprites.s6 ∧ SpriteOk s.params s.vic.sprites.s7

/-- The next CPU cycle is one its instruction or sequence has (R49, R188), and the CPU is halted exactly inside
a JAM. -/
def SequencerOk (s : State) : Prop :=
  match s.cpu.seq with
  | .boundary | .handler => s.cpu.jammed = false ∧ s.cpu.t = 1
  | .instr op =>
    if (rowOf op).1 = .jam then s.cpu.jammed = true
    else s.cpu.jammed = false ∧ 2 ≤ s.cpu.t ∧ s.cpu.t ≤ baseCycles op + extraCycles op
  | .irqSeq | .nmiSeq => s.cpu.jammed = false ∧ 2 ≤ s.cpu.t ∧ s.cpu.t ≤ 7
  | .resetSeq => s.cpu.jammed = false ∧ 1 ≤ s.cpu.t ∧ s.cpu.t ≤ 7

end Sys2Proof.Machine
end

