-- ==== Sys2Proof/Certificates/Slice0/Obligations.lean ====
section
/-! DEFINITION. The statements for the provers, each from the rules of spec/ its docstring names. A statement of
an instruction's result says that `exec` answers the next state the rule gives, in the CPU cycle in which the
rule's template operates; `busRead a s = .next (v, s1)` says that the byte at `a` reads `v` and that `s1` is the
state after the read, and is met by every readable operand, cartridge or not. -/

open Sys2Proof Sys2Proof.Machine

/-! ## Encoding -/

/-- R189 and the Encoding lists: words written out from the map decode to the instruction they stand for, in
every family. -/
def Obligations.DecodeWords : Prop :=
  decode [0xA9, 0x80] = .instr (.lda (.imm 0x80)) []
    ∧ decode [0x9D, 0xF0, 0x12, 0xEA] = .instr (.sta (.absX 0x12F0)) [0xEA]
    ∧ decode [0x28] = .instr .plp []
    ∧ decode [0x71, 0xFF] = .instr (.adc (.mem (.indY 0xFF))) []
    ∧ decode [0x6A] = .instr (.ror .acc) []
    ∧ decode [0x6C, 0xFF, 0x10] = .instr (.jmp (.ind 0x10FF)) []
    ∧ decode [0xD0, 0xFB] = .instr (.bne 0xFB) []
    ∧ decode [0xF8] = .instr .sed []
    ∧ decode [0x97, 0x80] = .instr (.sax (.zpY 0x80)) []
    ∧ decode [0x2B, 0x01] = .instr (.anc 0x2B 0x01) []
    ∧ decode [0xB2] = .instr (.jam 0xB2) []
    ∧ decodeTableWord 24 0x1234BF = some (.lax (.absY 0x1234))

/-- Decoding an encoded instruction gives it back, whatever bytes follow, for every instruction of the opcode
table at every operand (R160, R161, R189). -/
def Obligations.DecodeEncode : Prop :=
  ∀ (i : Instr) (rest : List Byte), i.wf = true → decode (encode i ++ rest) = .instr i rest

/-- Every opcode is an instruction (R191): bytes are refused only where the format's operand bytes are missing;
what is decoded is an instruction of the table, and it encodes to the bytes it was read from. -/
def Obligations.EncodeDecode : Prop :=
  (∀ (bs : List Byte) (i : Instr) (rest : List Byte), decode bs = .instr i rest → i.wf = true ∧ encode i ++ rest = bs)
    ∧ (∀ (op : Byte) (bs : List Byte), (∃ e, decode (op :: bs) = .reject e) ↔ bs.length + 1 < lengthOf op)
    ∧ (∀ nbits w : Nat, ∃ i, decodeTableWord nbits w = some i)

/-! ## The step -/

/-- R500 (d), R502: in a master cycle that no steal takes and in which the CPU is not halted, the step is the CPU's next
cycle, between the stages before it, which leave the CPU, the port and memory alone, and those after it; so too at a
boundary, in a fetch and inside a sequence. Inside an instruction, where the host leaves the CPU running and the cycle
fetches nothing, that is `exec` of the instruction that its fetched bytes decode to. That the operand bytes stand in
`ptr` and in the high half of `base`, and that these are the cycles `exec` has, are the model's own (log entries 14 and
18). -/
def Obligations.StepRunsDecoded : Prop :=
  (∀ s : State, admitted (supplied s) = true → stalls (supplied s) = false → (supplied s).cpu.jammed = false →
      step s = andThen (cpuCycle (beforeCpu (cycleIn s) (supplied s))) fun t => .next (afterCpu t))
    ∧ (∀ (inp : CycleIn) (s t : State), t = beforeCpu inp s →
      t = { s with vic := t.vic, cia1 := t.cia1, cia2 := t.cia2, snapshot := t.snapshot })
    ∧ (∀ (s : State) (op : Byte) (i : Instr) (rest : List Byte),
      NoReset s → admitted (supplied s) = true → stalls (supplied s) = false → s.cpu.jammed = false →
      s.cpu.seq = .instr op → decode [op, s.cpu.ptr, hi s.cpu.base] = .instr i rest → fetchAt op s.cpu.t = none →
      step s = andThen (exec i (beforeCpu (cycleIn s) (supplied s))) fun t => .next (afterCpu t))

/-- R170, R172, R177, R181, R183: the cycles that fetch. T1 reads the opcode at PC and moves PC; an operand fetch
reads its byte at PC, moves PC and latches it; where the instruction operates on its last byte in the cycle that
fetches it (immediate, relative, JMP absolute, JSR's T6), it polls first and the instruction operates on the byte.
That the bytes are latched in `ptr` and `base`, and that `exec` is what runs on the last one, are the model's own
(log entries 14 and 18). -/
def Obligations.FetchCycles : Prop :=
  (∀ (s s1 : State) (op : Byte), FetchNext s → busRead s.cpu.pc s = .next (op, s1) → (rowOf op).1 ≠ .jam →
      cpuCycle s = .next (mapCpu (fun c => { c with pc := c.pc + 1, seq := .instr op, t := 2 }) s1))
    ∧ (∀ (s s1 : State) (op b : Byte), s.cpu.seq = .instr op → fetchAt op s.cpu.t = some .first →
        operatesOnFetch op s.cpu.t = false → busRead s.cpu.pc s = .next (b, s1) →
        cpuCycle s = .next (mapCpu (fun c => { c with ptr := b, pc := c.pc + 1, t := c.t + 1 }) s1))
    ∧ (∀ (s s1 : State) (op b : Byte), s.cpu.seq = .instr op → fetchAt op s.cpu.t = some .second →
        operatesOnFetch op s.cpu.t = false → busRead s.cpu.pc s = .next (b, s1) →
        cpuCycle s = .next (mapCpu (fun c => { c with base := cat b c.ptr, pc := c.pc + 1, t := c.t + 1 }) s1))
    ∧ (∀ (s s1 : State) (op b : Byte) (i : Instr) (rest : List Byte), s.cpu.seq = .instr op →
        fetchAt op s.cpu.t = some .first → operatesOnFetch op s.cpu.t = true →
        busRead s.cpu.pc (poll s) = .next (b, s1) → decode [op, b, 0] = .instr i rest →
        cpuCycle s = exec i (mapCpu (fun c => { c with ptr := b, pc := c.pc + 1 }) s1))
    ∧ (∀ (s s1 : State) (op b : Byte) (i : Instr) (rest : List Byte), s.cpu.seq = .instr op →
        fetchAt op s.cpu.t = some .second → operatesOnFetch op s.cpu.t = true →
        busRead s.cpu.pc (poll s) = .next (b, s1) → decode [op, s.cpu.ptr, b] = .instr i rest →
        cpuCycle s = exec i (mapCpu (fun c => { c with base := cat b c.ptr, pc := c.pc + 1 }) s1))

/-- R443: a stolen master cycle is its other stages alone: no access, read or write, and no CPU cycle. The CPU keeps
every register, flag, the sequencer and the polls, so it resumes where it was; only the stage (e) latches move. -/
def Obligations.StalledIdle : Prop :=
  ∀ s : State, admitted (supplied s) = true → stalls (supplied s) = true →
    ∃ t, step s = .next t ∧ t = afterCpu (beforeCpu (cycleIn s) (supplied s))
      ∧ t.cpu = { (supplied s).cpu with
          irqLatch := irqLine t, nmiPrev := nmiLine t
          nmiPending := (supplied s).cpu.nmiPending || (nmiLine t && !s.cpu.nmiPrev) }
      ∧ t.ram = s.ram ∧ t.color = s.color ∧ t.ddr = (supplied s).ddr ∧ t.port = (supplied s).port
      ∧ t.sound = s.sound ∧ t.draws = s.draws

/-- R333, R186, R416: JAM halts the CPU, whichever of its twelve opcodes it has, in the cycle that fetches it,
with PC one past it. A master cycle of a halted CPU is its other stages alone: it keeps every register, makes no
access and takes no interrupt; the rest of the machine goes on. A reset, and nothing else, ends the halt (when a step
takes one is in ResetSequence). That a halted CPU's sequencer stands at T2 of the JAM is the model's choice (log entry
27). -/
def Obligations.JamHalts : Prop :=
  (∀ (op : Byte) (s : State), exec (.jam op) s = .next (mapCpu (fun c => { c with jammed := true }) s))
    ∧ (∀ (s s1 : State) (op : Byte), FetchNext s → busRead s.cpu.pc s = .next (op, s1) →
        op ∈ jamOpcodes → cpuCycle s =
          .next (mapCpu (fun c => { c with pc := c.pc + 1, seq := .instr op, t := 2, jammed := true }) s1))
    ∧ (∀ s : State, NoReset s → admitted (supplied s) = true → s.cpu.jammed = true →
        ∃ t, step s = .next t ∧ t = afterCpu (beforeCpu (cycleIn s) (supplied s))
          ∧ t.cpu = { s.cpu with
              irqLatch := irqLine t, nmiPrev := nmiLine t
              nmiPending := s.cpu.nmiPending || (nmiLine t && !s.cpu.nmiPrev) }
          ∧ t.ram = s.ram ∧ t.color = s.color ∧ t.ddr = s.ddr ∧ t.port = s.port ∧ t.sound = s.sound
          ∧ t.draws = s.draws ∧ t.mcycle = s.mcycle + 1)
    ∧ (∀ s : State, (applyReset s).cpu.jammed = false ∧ (applyReset s).cpu.seq = .resetSeq)

/-- R188, R540: without a cartridge every instruction but JAM, fetched at a boundary, runs to its end, inside the
instruction until then, in its published base cycles plus at most its penalties. -/
def Obligations.TableCycles : Prop :=
  ∀ (s s1 : State) (op : Byte), FetchNext s → NoCartridge s → busRead s.cpu.pc s = .next (op, s1) →
    (rowOf op).1 ≠ .jam →
    ∃ k t, baseCycles op ≤ k ∧ k ≤ baseCycles op + extraCycles op ∧ cpuRun k s = .next t ∧ Between t
      ∧ ∀ j u, 0 < j → j < k → cpuRun j s = .next u → u.cpu.seq = .instr op

/-- R81, R417, R92, R511: without a cartridge every step and every cycle of every instruction answers a next
state; with the lines at other values and no map the state is refused; a fault is `NoSource`, and the map that is
then present has no row for some address. That a map is a list of rows is the model's choice (log entry 11). -/
def Obligations.StepAnswers : Prop :=
  (∀ s : State, NoCartridge (supplied s) → ∃ t, step s = .next t)
    ∧ (∀ (i : Instr) (s : State), NoCartridge s → ∃ t, exec i s = .next t)
    ∧ (∀ s : State, ¬ NoCartridge (supplied s) → (supplied s).host.cartMap = none →
        step s = .refused .cartMapAbsent)
    ∧ (∀ (s : State) (f : Fault), step s = .fault f →
        f = .noSource ∧ ¬ NoCartridge (supplied s) ∧ ∃ rows, (supplied s).host.cartMap = some rows
          ∧ ∃ (d : Dir) (a : Word), 2 ≤ a.toNat
            ∧ ∀ r ∈ rows, ¬ (r.bank = bankConfig (supplied s) ∧ r.dir = d ∧ r.first ≤ a.toNat ∧ a.toNat ≤ r.last))

/-! ## What every step keeps -/

/-- R54, R430: every step keeps the canonical form of RAM, colour RAM, the ROM images and the VIC's cells, with
every address inside its storage; so the decode never reaches outside one. -/
def Obligations.StepKeepsStorage : Prop := ∀ s t : State, StorageOk s → step s = .next t → StorageOk t

/-- R431, R469, R440, R441: every step keeps the raster position inside the frame, the LOAD bits of the four
control registers at 0, and every sprite's DMA on exactly while it has rounds left. -/
def Obligations.StepKeepsDevices : Prop :=
  ∀ s t : State, PositionOk s ∧ ControlOk s.cia1 ∧ ControlOk s.cia2 ∧ SpritesOk s → step s = .next t →
    PositionOk t ∧ ControlOk t.cia1 ∧ ControlOk t.cia2 ∧ SpritesOk t

/-- R49, R188, R333: every step leaves the sequencer at a cycle its instruction or sequence has, and the CPU
halted only inside a JAM. -/
def Obligations.StepKeepsSequencer : Prop := ∀ s t : State, SequencerOk s → step s = .next t → SequencerOk t

/-- The invariants that every step keeps hold at reset. -/
def Obligations.ResetInvariants : Prop :=
  StorageOk State.reset ∧ PositionOk State.reset ∧ ControlOk State.reset.cia1 ∧ ControlOk State.reset.cia2
    ∧ SpritesOk State.reset ∧ SequencerOk State.reset

/-- R54, R57, R444, R94, R432: no step changes a ROM or a parameter; the master cycle counter goes up by exactly
one; the snapshot is the VIC's at the start of the cycle; what has been handed to the host stays handed. That the
host's inputs are a queue of which a step takes one entry (log entry 9), and the events lists that a step adds to (log
entry 16), are the model's choice. -/
def Obligations.StepConstants : Prop :=
  ∀ s t : State, step s = .next t →
    t.romBasic = s.romBasic ∧ t.romKernal = s.romKernal ∧ t.romChar = s.romChar ∧ t.params = s.params
      ∧ t.mcycle = s.mcycle + 1 ∧ t.snapshot = snapshotOf s.mcycle (supplied s).vic
      ∧ t.inputs = s.inputs.tail ∧ t.host = (cycleIn s).held.getD s.host
      ∧ (∃ e, t.sound = s.sound ++ e ∧ e.length ≤ 1) ∧ (∃ e, t.frames = s.frames ++ e ∧ e.length ≤ 1)

/-- R403: `nmi_pending` is cleared only by a reset, or in T6 of a sequence that reads `VEC_NMI`: the NMI
sequence, a hijacked IRQ sequence or a hijacked BRK. -/
def Obligations.NmiPendingCleared : Prop :=
  ∀ s t : State, NoReset s → step s = .next t → s.cpu.nmiPending = true → t.cpu.nmiPending = false →
    s.cpu.t = 6 ∧ s.cpu.ea = s.params.vecNmi
      ∧ (s.cpu.seq = .irqSeq ∨ s.cpu.seq = .nmiSeq ∨ s.cpu.seq = .instr 0x00)

/-- R46: which instructions a flag is written by; every other leaves it unchanged, and so does a stolen cycle. I
is also set by T6 of the three sequences; D is not changed by any of them. -/
def Obligations.FlagWriters : Prop :=
  ∀ s t : State, NoReset s → step s = .next t →
    (t.cpu.n ≠ s.cpu.n ∨ t.cpu.z ≠ s.cpu.z → ∃ op, s.cpu.seq = .instr op ∧ (rowOf op).1 ∈
        [.lda, .ldx, .ldy, .tax, .tay, .txa, .tya, .tsx, .pla, .adc, .sbc, .and, .ora, .eor, .cmp, .cpx, .cpy,
         .inc, .dec, .inx, .iny, .dex, .dey, .asl, .lsr, .rol, .ror, .bit, .plp, .rti, .slo, .rla, .sre, .rra,
         .lax, .dcp, .isc, .anc, .alr, .arr, .ane, .lxa, .sbx, .usbc, .las])
      ∧ (t.cpu.c ≠ s.cpu.c → ∃ op, s.cpu.seq = .instr op ∧ (rowOf op).1 ∈
        [.adc, .sbc, .cmp, .cpx, .cpy, .asl, .lsr, .rol, .ror, .clc, .sec, .plp, .rti, .slo, .rla, .sre, .rra,
         .dcp, .isc, .anc, .alr, .arr, .sbx, .usbc])
      ∧ (t.cpu.v ≠ s.cpu.v → ∃ op, s.cpu.seq = .instr op ∧ (rowOf op).1 ∈
        [.adc, .sbc, .bit, .clv, .plp, .rti, .rra, .isc, .arr, .usbc])
      ∧ (t.cpu.d ≠ s.cpu.d → ∃ op, s.cpu.seq = .instr op ∧ (rowOf op).1 ∈ [.cld, .sed, .plp, .rti])
      ∧ (t.cpu.i ≠ s.cpu.i →
          (∃ op, s.cpu.seq = .instr op ∧ (rowOf op).1 ∈ [.cli, .sei, .plp, .rti, .brk])
            ∨ ((s.cpu.seq = .irqSeq ∨ s.cpu.seq = .nmiSeq ∨ s.cpu.seq = .resetSeq) ∧ s.cpu.t = 6
                ∧ t.cpu.i = true))
      ∧ (stalls (supplied s) = true → t.cpu.n = s.cpu.n ∧ t.cpu.z = s.cpu.z ∧ t.cpu.c = s.cpu.c ∧ t.cpu.v = s.cpu.v
          ∧ t.cpu.d = s.cpu.d ∧ t.cpu.i = s.cpu.i)

/-- R41, R42, R43: which instructions and sequences A, X, Y and S are written by; PC moves in no stolen cycle. -/
def Obligations.RegisterWriters : Prop :=
  ∀ s t : State, NoReset s → step s = .next t →
    (t.cpu.a ≠ s.cpu.a → ∃ op, s.cpu.seq = .instr op ∧ ((rowOf op).1 ∈
        [.lda, .pla, .txa, .tya, .adc, .sbc, .and, .ora, .eor, .slo, .rla, .sre, .rra, .isc, .lax, .lxa, .ane,
         .anc, .alr, .arr, .las, .usbc] ∨ (rowOf op).2 = .acc))
      ∧ (t.cpu.x ≠ s.cpu.x → ∃ op, s.cpu.seq = .instr op ∧ (rowOf op).1 ∈
        [.ldx, .tax, .tsx, .inx, .dex, .lax, .lxa, .sbx, .las])
      ∧ (t.cpu.y ≠ s.cpu.y → ∃ op, s.cpu.seq = .instr op ∧ (rowOf op).1 ∈ [.ldy, .tay, .iny, .dey])
      ∧ (t.cpu.sp ≠ s.cpu.sp →
          (∃ op, s.cpu.seq = .instr op ∧ (rowOf op).1 ∈
            [.txs, .pha, .php, .pla, .plp, .jsr, .rts, .rti, .brk, .tas, .las])
            ∨ s.cpu.seq = .irqSeq ∨ s.cpu.seq = .nmiSeq ∨ s.cpu.seq = .resetSeq)
      ∧ (stalls (supplied s) = true → t.cpu.pc = s.cpu.pc)

/-! ## Reset -/

/-- R414, R415, R505, R58, R506: a machine reset, from any state without a cartridge and whatever `VEC_RESET` is, ends
seven CPU cycles later with the first instruction about to be fetched: A, X, Y, S, the flags, the pending NMI, the
polls, the port, the VIC and the CIAs have the values of R58, and the CPU is not halted. PC is the word read at
`VEC_RESET` through the bus in T6 and T7; at the default $FFFC that is the KERNAL image's. The reset writes nothing to
memory, and leaves the ROMs, the parameters, the host's side and `mcycle` alone. A step before which the host applies
a reset, or a reset is pending (R50, R508), starts from that reset and runs its T1, which no steal takes; any other
starts from the state with what the host holds in force. The host's actions being a queue is the model's choice (log
entry 9). -/
def Obligations.ResetSequence : Prop :=
  ∀ s : State,
    (NoCartridge s →
      ∃ (t u u1 u2 : State) (l h : Byte), cpuRun 7 (applyReset s) = .next t
        ∧ t = { s with
            cpu := t.cpu, draws := t.draws, ddr := 0, port := 0, vic := vicReset, cia1 := ciaReset, cia2 := ciaReset }
        ∧ FetchNext t ∧ t.cpu.a = 0 ∧ t.cpu.x = 0 ∧ t.cpu.y = 0 ∧ t.cpu.sp = 0xFD ∧ t.cpu.i = true ∧ t.cpu.d = false
        ∧ t.cpu.c = false ∧ t.cpu.z = false ∧ t.cpu.v = false ∧ t.cpu.n = false ∧ t.cpu.nmiPending = false
        ∧ t.cpu.pollIrq = false ∧ t.cpu.pollNmi = false ∧ t.cpu.jammed = false
        ∧ cpuRun 5 (applyReset s) = .next u ∧ busRead s.params.vecReset u = .next (l, u1)
        ∧ busRead (s.params.vecReset + 1) u1 = .next (h, u2) ∧ t.cpu.pc = cat h l
        ∧ (s.params.vecReset = 0xFFFC →
            t.cpu.pc = cat (Cells.read s.romKernal 0x1FFD) (Cells.read s.romKernal 0x1FFC)))
      ∧ ((cycleIn s).reset = true ∨ s.cpu.resetPending = true →
        supplied s = applyReset { s with inputs := s.inputs.tail, host := (cycleIn s).held.getD s.host }
          ∧ (admitted (supplied s) = true →
            step s = andThen (cpuCycle (beforeCpu (cycleIn s) (supplied s))) fun t => .next (afterCpu t)))
      ∧ (NoReset s → supplied s = { s with inputs := s.inputs.tail, host := (cycleIn s).held.getD s.host })

/-- R58, R449, R489: the state after reset has the values those rules give; and it is what seven master cycles
make of the machine at power-on with no image loaded (R500, R504; log entries 2 and 5). The position (0, 7) and
the flag IRST are those seven cycles' (R431, R449); memory listing nothing is the model's choice (log entry 3). -/
def Obligations.ResetState : Prop :=
  run 7 State.powerOn = .next State.reset
    ∧ FetchNext State.reset ∧ NoReset State.reset ∧ State.reset.cpu.a = 0 ∧ State.reset.cpu.x = 0 ∧ State.reset.cpu.y = 0
    ∧ State.reset.cpu.sp = 0xFD ∧ State.reset.cpu.i = true ∧ State.reset.cpu.d = false
    ∧ State.reset.cpu.c = false ∧ State.reset.cpu.z = false ∧ State.reset.cpu.v = false ∧ State.reset.cpu.n = false
    ∧ State.reset.cpu.nmiPending = false ∧ State.reset.cpu.pollIrq = false ∧ State.reset.cpu.pollNmi = false
    ∧ State.reset.cpu.jammed = false ∧ State.reset.ddr = 0 ∧ State.reset.port = 0
    ∧ State.reset.cpu.irqLatch = irqLine State.reset ∧ State.reset.cpu.nmiPrev = nmiLine State.reset
    ∧ State.reset.vic = { vicReset with cyc := 7, irqLatch := 1, eqPrev := true }
    ∧ State.reset.cia1 = ciaReset ∧ State.reset.cia2 = ciaReset

/-! ## Operand forms -/

/-- R164, R165, R166, R168: the effective addresses in numbers, the partial address and the crossing; without a
crossing the partial address is the effective one. -/
def Obligations.Addressing : Prop :=
  ∀ c : Cpu,
    (∀ b, (effAddr (.zp b) c).toNat = b.toNat
        ∧ (effAddr (.zpX b) c).toNat = (b.toNat + c.x.toNat) % 256
        ∧ (effAddr (.zpY b) c).toNat = (b.toNat + c.y.toNat) % 256)
      ∧ (∀ b1 b2 : Byte, (effAddr (.abs (operandWord b1 b2)) c).toNat = 256 * b2.toNat + b1.toNat
          ∧ (effAddr (.absX (operandWord b1 b2)) c).toNat = (256 * b2.toNat + b1.toNat + c.x.toNat) % 65536
          ∧ (effAddr (.absY (operandWord b1 b2)) c).toNat = (256 * b2.toNat + b1.toNat + c.y.toNat) % 65536
          ∧ (partialAddr (.absX (operandWord b1 b2)) c).toNat = 256 * b2.toNat + (b1.toNat + c.x.toNat) % 256
          ∧ (partialAddr (.absY (operandWord b1 b2)) c).toNat = 256 * b2.toNat + (b1.toNat + c.y.toNat) % 256
          ∧ (crosses (.absX (operandWord b1 b2)) c = true ↔ b1.toNat + c.x.toNat > 255)
          ∧ (crosses (.absY (operandWord b1 b2)) c = true ↔ b1.toNat + c.y.toNat > 255))
      ∧ (∀ (b l h : Byte), c.base = cat h l →
          (effAddr (.indY b) c).toNat = (256 * h.toNat + l.toNat + c.y.toNat) % 65536
          ∧ (partialAddr (.indY b) c).toNat = 256 * h.toNat + (l.toNat + c.y.toNat) % 256
          ∧ (crosses (.indY b) c = true ↔ l.toNat + c.y.toNat > 255))
      ∧ (∀ m : Mem, hasFixup m = true → (crosses m c = false ↔ partialAddr m c = effAddr m c))

/-- R167, R168, R173, R174, R175: before the cycle of its datum every instruction with a memory operand goes
through the lead cycles of its form, the same for reads, writes and read-modify-writes: a dummy read at the
operand byte for the zero-page indexed forms, and for an absolute indexed form a dummy read at the partial
address. `(zp,X)` makes a dummy read at `b1` (T3); its pointer is the two bytes at `b1 + X` and `b1 + X + 1`, both in
page $00, and the datum is at `hi:lo`. The pointer of `(zp),Y` is the two bytes at `b1` and `b1 + 1` in page $00; it
makes a dummy read at the partial address (T5), and the datum is at `hi:lo + Y`. What the latches `ea`, `base` and
`crossed` hold meanwhile is the model's own (log entry 14). -/
def Obligations.LeadCycles : Prop :=
  ((∀ (m : Mem) (s : State), s.cpu.t < datumCycle m →
      (∀ f ∈ [Instr.sta, .stx, .sty, .sax, .sha, .shx, .shy, .tas, .inc, .dec, .slo, .rla, .sre, .rra, .dcp, .isc],
          exec (f m) s = leadCycle m s)
        ∧ (∀ f ∈ [Instr.asl, .lsr, .rol, .ror], exec (f (.mem m)) s = leadCycle m s)
        ∧ (readsDatum m s = false →
          (∀ f ∈ [Instr.lda, .ldx, .ldy, .adc, .sbc, .cmp, .cpx, .cpy, .and, .ora, .eor],
              exec (f (.mem m)) s = leadCycle m s)
            ∧ (∀ f ∈ [Instr.bit, .lax, .las], exec (f m) s = leadCycle m s)
            ∧ ∀ op, exec (.nop op (.mem m)) s = leadCycle m s))
    ∧ (∀ (b v : Byte) (s s1 : State), busRead (zext16 b) s = .next (v, s1) →
        leadCycle (.zpX b) s = .next (nextCycle s1) ∧ leadCycle (.zpY b) s = .next (nextCycle s1))
    ∧ (∀ (w : Word) (v : Byte) (s s1 : State),
        (busRead (partialAddr (.absX w) s.cpu) s = .next (v, s1) →
          leadCycle (.absX w) s = .next (nextCycle (mapCpu (fun c =>
            { c with ea := w + zext16 s.cpu.x, crossed := crosses (.absX w) s.cpu }) s1)))
        ∧ (busRead (partialAddr (.absY w) s.cpu) s = .next (v, s1) →
          leadCycle (.absY w) s = .next (nextCycle (mapCpu (fun c =>
            { c with ea := w + zext16 s.cpu.y, crossed := crosses (.absY w) s.cpu }) s1)))))
    ∧ ((∀ (b l h : Byte) (s s1 s2 : State), s.cpu.t = 4 →
      busRead (zext16 (b + s.cpu.x)) s = .next (l, s1) →
      busRead (zext16 (b + s.cpu.x + 1)) (nextCycle (mapCpu (fun c => { c with ea := zext16 l }) s1)) = .next (h, s2) →
      ∃ t, andThen (leadCycle (.indX b) s) (leadCycle (.indX b)) = .next t ∧ t.cpu.t = 6
        ∧ effAddr (.indX b) t.cpu = cat h l)
    ∧ (∀ (b v : Byte) (s s1 : State), s.cpu.t = 3 → busRead (zext16 b) s = .next (v, s1) →
      leadCycle (.indX b) s = .next (nextCycle s1))
    ∧ (∀ (b v : Byte) (s s1 : State), s.cpu.t = 5 → busRead (partialAddr (.indY b) s.cpu) s = .next (v, s1) →
      leadCycle (.indY b) s = .next (nextCycle (mapCpu (fun c =>
        { c with ea := s.cpu.base + zext16 s.cpu.y, crossed := crosses (.indY b) s.cpu }) s1)))
    ∧ (∀ (b l h : Byte) (s s1 s2 : State), s.cpu.t = 3 →
      busRead (zext16 b) s = .next (l, s1) →
      busRead (zext16 (b + 1)) (nextCycle (mapCpu (fun c => { c with base := zext16 l }) s1)) = .next (h, s2) →
      ∃ t, andThen (leadCycle (.indY b) s) (leadCycle (.indY b)) = .next t ∧ t.cpu.t = 5
        ∧ effAddr (.indY b) t.cpu = cat h l + zext16 s.cpu.y))


/-! ## Loads, stores, transfers, stack -/

/-- R201, R202, R203, R328: LDA, LDX, LDY and LAX answer, in the cycle that reads the datum, the state after that
read and the poll, with the register (LAX: A and X), N and Z of the datum, at the instruction boundary; an
immediate operand is its own datum. Every memory form. -/
def Obligations.LoadsAnswer : Prop :=
  (∀ (m : Mem) (s s1 : State) (v : Byte), readsDatum m s = true →
      busRead (effAddr m s.cpu) (poll s) = .next (v, s1) →
      exec (.lda (.mem m)) s
          = .next (endInstr (mapCpu (fun c => { c with a := v, n := v.getLsbD 7, z := v == 0 }) s1))
        ∧ exec (.ldx (.mem m)) s
          = .next (endInstr (mapCpu (fun c => { c with x := v, n := v.getLsbD 7, z := v == 0 }) s1))
        ∧ exec (.ldy (.mem m)) s
          = .next (endInstr (mapCpu (fun c => { c with y := v, n := v.getLsbD 7, z := v == 0 }) s1))
        ∧ exec (.lax m) s
          = .next (endInstr (mapCpu (fun c => { c with a := v, x := v, n := v.getLsbD 7, z := v == 0 }) s1)))
    ∧ (∀ (v : Byte) (s : State),
      exec (.lda (.imm v)) s
          = .next (endInstr (mapCpu (fun c => { c with a := v, n := v.getLsbD 7, z := v == 0 }) s))
        ∧ exec (.ldx (.imm v)) s
          = .next (endInstr (mapCpu (fun c => { c with x := v, n := v.getLsbD 7, z := v == 0 }) s))
        ∧ exec (.ldy (.imm v)) s
          = .next (endInstr (mapCpu (fun c => { c with y := v, n := v.getLsbD 7, z := v == 0 }) s)))

/-- R204, R205, R206, R327: STA, STX, STY and SAX answer, in their write cycle, the state after A, X, Y, or A and
X, has been written at the effective address, at the instruction boundary, no register or flag changed. -/
def Obligations.StoresAnswer : Prop :=
  ∀ (m : Mem) (s s1 : State), datumCycle m ≤ s.cpu.t →
    (busWrite (effAddr m s.cpu) s.cpu.a (poll s) = .next s1 → exec (.sta m) s = .next (endInstr s1))
      ∧ (busWrite (effAddr m s.cpu) s.cpu.x (poll s) = .next s1 → exec (.stx m) s = .next (endInstr s1))
      ∧ (busWrite (effAddr m s.cpu) s.cpu.y (poll s) = .next s1 → exec (.sty m) s = .next (endInstr s1))
      ∧ (busWrite (effAddr m s.cpu) (s.cpu.a &&& s.cpu.x) (poll s) = .next s1 →
          exec (.sax m) s = .next (endInstr s1))

/-- R207 to R212, R249 to R252, R310 to R317, R342: every implied instruction that only changes registers or
flags: in the one cycle after its fetch it polls, makes the dummy read at PC, writes what its rule says, and
ends. CLI and SEI poll with the I from before (R406). A NOP with an operand makes the reads of its mode, with
their side effects, and ends with no register or flag changed. -/
def Obligations.ImpliedAnswer : Prop :=
  (∀ (s s1 : State) (v : Byte), busRead s.cpu.pc (poll s) = .next (v, s1) →
    exec .tax s = .next (endInstr (mapCpu (fun c => { c with x := c.a, n := c.a.getLsbD 7, z := c.a == 0 }) s1))
      ∧ exec .tay s = .next (endInstr (mapCpu (fun c => { c with y := c.a, n := c.a.getLsbD 7, z := c.a == 0 }) s1))
      ∧ exec .txa s = .next (endInstr (mapCpu (fun c => { c with a := c.x, n := c.x.getLsbD 7, z := c.x == 0 }) s1))
      ∧ exec .tya s = .next (endInstr (mapCpu (fun c => { c with a := c.y, n := c.y.getLsbD 7, z := c.y == 0 }) s1))
      ∧ exec .tsx s = .next (endInstr (mapCpu (fun c => { c with x := c.sp, n := c.sp.getLsbD 7, z := c.sp == 0 }) s1))
      ∧ exec .txs s = .next (endInstr (mapCpu (fun c => { c with sp := c.x }) s1))
      ∧ exec .inx s = .next (endInstr (mapCpu (fun c =>
          { c with x := c.x + 1, n := (c.x + 1).getLsbD 7, z := c.x + 1 == 0 }) s1))
      ∧ exec .iny s = .next (endInstr (mapCpu (fun c =>
          { c with y := c.y + 1, n := (c.y + 1).getLsbD 7, z := c.y + 1 == 0 }) s1))
      ∧ exec .dex s = .next (endInstr (mapCpu (fun c =>
          { c with x := c.x - 1, n := (c.x - 1).getLsbD 7, z := c.x - 1 == 0 }) s1))
      ∧ exec .dey s = .next (endInstr (mapCpu (fun c =>
          { c with y := c.y - 1, n := (c.y - 1).getLsbD 7, z := c.y - 1 == 0 }) s1))
      ∧ exec .clc s = .next (endInstr (mapCpu (fun c => { c with c := false }) s1))
      ∧ exec .sec s = .next (endInstr (mapCpu (fun c => { c with c := true }) s1))
      ∧ exec .cli s = .next (endInstr (mapCpu (fun c => { c with i := false }) s1))
      ∧ exec .sei s = .next (endInstr (mapCpu (fun c => { c with i := true }) s1))
      ∧ exec .cld s = .next (endInstr (mapCpu (fun c => { c with d := false }) s1))
      ∧ exec .sed s = .next (endInstr (mapCpu (fun c => { c with d := true }) s1))
      ∧ exec .clv s = .next (endInstr (mapCpu (fun c => { c with v := false }) s1))
      ∧ (∀ op, exec (.nop op .implied) s = .next (endInstr s1)))
    ∧ ((∀ (op v : Byte) (s : State), exec (.nop op (.imm v)) s = .next (endInstr s))
    ∧ (∀ (op : Byte) (m : Mem) (s s1 : State) (v : Byte), readsDatum m s = true →
        busRead (effAddr m s.cpu) (poll s) = .next (v, s1) → exec (.nop op (.mem m)) s = .next (endInstr s1)))


/-- R47, R48, R176, R230 to R233: PHA and PHP make a dummy read, then write A or `P(1)` at `$0100 | S` and
decrement S; PLA and PLP make a dummy read, then one of the stack with S incremented, then pull. The byte `P(b)`
in numbers: bit 5 is 1 and bit 4 the `b` pushed; pulling a pushed byte gives the flags back, whatever `b` was, and
bits 5 and 4 of a pulled byte do not matter. -/
def Obligations.StackAnswer : Prop :=
  ((∀ (s s1 : State) (v : Byte), s.cpu.t = 2 → busRead s.cpu.pc s = .next (v, s1) →
      ∀ i ∈ [Instr.pha, .php, .pla, .plp], exec i s = .next (nextCycle s1))
    ∧ (∀ s s1 : State, 3 ≤ s.cpu.t → busWrite (stackAddr s.cpu.sp) s.cpu.a (poll s) = .next s1 →
        exec .pha s = .next (endInstr (mapCpu (fun c => { c with sp := c.sp - 1 }) s1)))
    ∧ (∀ s s1 : State, 3 ≤ s.cpu.t → busWrite (stackAddr s.cpu.sp) (packP true s.cpu) (poll s) = .next s1 →
        exec .php s = .next (endInstr (mapCpu (fun c => { c with sp := c.sp - 1 }) s1)))
    ∧ (∀ (s s1 : State) (v : Byte), s.cpu.t = 3 → busRead (stackAddr s.cpu.sp) s = .next (v, s1) →
        ∀ i ∈ [Instr.pla, .plp], exec i s = .next (nextCycle (mapCpu (fun c => { c with sp := c.sp + 1 }) s1)))
    ∧ (∀ (s s1 : State) (v : Byte), 4 ≤ s.cpu.t → busRead (stackAddr s.cpu.sp) (poll s) = .next (v, s1) →
        exec .pla s = .next (endInstr (mapCpu (fun c => { c with a := v, n := v.getLsbD 7, z := v == 0 }) s1))
          ∧ exec .plp s = .next (endInstr (mapCpu (fun c =>
              { c with n := v.getLsbD 7, v := v.getLsbD 6, d := v.getLsbD 3, i := v.getLsbD 2, z := v.getLsbD 1
                       c := v.getLsbD 0 }) s1))))
    ∧ ((∀ (b : Bool) (c : Cpu), (packP b c).toNat = 128 * c.n.toNat + 64 * c.v.toNat + 32 + 16 * b.toNat + 8 * c.d.toNat
      + 4 * c.i.toNat + 2 * c.z.toNat + c.c.toNat)
    ∧ (∀ (b : Bool) (c d : Cpu), unpackP (packP b c) d
        = { d with n := c.n, v := c.v, d := c.d, i := c.i, z := c.z, c := c.c })
    ∧ (∀ (c d : Cpu) (p : Byte), packP true (unpackP p c) = p ||| 0x30 ∧ unpackP (p ^^^ 0x30) d = unpackP p d))


/-! ## Arithmetic and logic -/

/-- R240, R241: ADC, of a memory operand of every form and of an immediate: the state after the read, with A and
the flags of the binary sum if D = 0, and of the decimal adjustment (NMOS) if D = 1. -/
def Obligations.AdcAnswer : Prop :=
  (∀ (m : Mem) (s s1 : State) (v : Byte), readsDatum m s = true →
      busRead (effAddr m s.cpu) (poll s) = .next (v, s1) →
      exec (.adc (.mem m)) s = .next (endInstr (mapCpu (adcOp v) s1)))
    ∧ (∀ (v : Byte) (s : State), exec (.adc (.imm v)) s = .next (endInstr (mapCpu (adcOp v) s)))
    ∧ (∀ (v r : Byte) (c : Cpu), c.d = false → r.toNat = (c.a.toNat + v.toNat + c.c.toNat) % 256 →
        adcOp v c = { c with
          a := r, n := r.getLsbD 7, z := r == 0, c := decide (255 < c.a.toNat + v.toNat + c.c.toNat)
          v := (~~~(c.a ^^^ v) &&& (c.a ^^^ r)).getLsbD 7 })
    ∧ (∀ (v : Byte) (c : Cpu) (lo t u : Nat), c.d = true →
        lo = (let l := c.a.toNat % 16 + v.toNat % 16 + c.c.toNat; if 10 ≤ l then (l + 6) % 16 + 16 else l) →
        t = c.a.toNat / 16 * 16 + v.toNat / 16 * 16 + lo → u = (if 0xA0 ≤ t then t + 0x60 else t) →
        adcOp v c = { c with
          a := BitVec.ofNat 8 u, n := decide (t / 128 % 2 = 1), c := decide (0x100 ≤ u)
          z := decide ((c.a.toNat + v.toNat + c.c.toNat) % 256 = 0)
          v := (~~~(c.a ^^^ v) &&& (c.a ^^^ BitVec.ofNat 8 t)).getLsbD 7 })

/-- R242, R243, R336: SBC, of a memory operand of every form and of an immediate, and USBC, which is SBC
immediate: the flags are those of the binary difference in both modes, A is the binary difference if D = 0 and
its decimal adjustment (NMOS) if D = 1. In binary mode SBC is ADC of the complement (R242). -/
def Obligations.SbcAnswer : Prop :=
  (∀ (m : Mem) (s s1 : State) (v : Byte), readsDatum m s = true →
      busRead (effAddr m s.cpu) (poll s) = .next (v, s1) →
      exec (.sbc (.mem m)) s = .next (endInstr (mapCpu (sbcOp v) s1)))
    ∧ (∀ (v : Byte) (s : State), exec (.sbc (.imm v)) s = .next (endInstr (mapCpu (sbcOp v) s))
        ∧ exec (.usbc v) s = .next (endInstr (mapCpu (sbcOp v) s)))
    ∧ (∀ (v r : Byte) (c : Cpu), c.d = false → r.toNat = (c.a.toNat + 255 + c.c.toNat - v.toNat) % 256 →
        sbcOp v c = { c with
          a := r, n := r.getLsbD 7, z := r == 0, c := decide (v.toNat + 1 ≤ c.a.toNat + c.c.toNat)
          v := ((c.a ^^^ v) &&& (c.a ^^^ r)).getLsbD 7 })
    ∧ (∀ (v : Byte) (c : Cpu), c.d = false → sbcOp v c = adcOp (v ^^^ 0xFF) c)
    ∧ (∀ (v : Byte) (c : Cpu) (lo t : Int), c.d = true →
        lo = (let l : Int := (c.a.toNat % 16 : Nat) - (v.toNat % 16 : Nat) + c.c.toNat - 1
              if l < 0 then (l - 6) % 16 - 16 else l) →
        t = (c.a.toNat / 16 * 16 : Nat) - (v.toNat / 16 * 16 : Nat) + lo →
        sbcOp v c = { sbcOp v { c with d := false } with
          d := true, a := BitVec.ofInt 8 (if t < 0 then t - 0x60 else t) })

/-- R45, R241, R243: what the results mean. V is set exactly when the signed sum or difference does not fit a
byte; in decimal mode, two valid two-digit numbers give the two digits of their decimal sum or difference, with
C set exactly when the sum exceeds 99, or nothing was borrowed. -/
def Obligations.ArithmeticMeaning : Prop :=
  (∀ (v : Byte) (c : Cpu), c.d = false →
      ((adcOp v c).v = true ↔ (c.a.toInt + v.toInt + c.c.toNat < -128 ∨ 127 < c.a.toInt + v.toInt + c.c.toNat))
      ∧ ((sbcOp v c).v = true ↔
          (c.a.toInt - v.toInt - (1 - (c.c.toNat : Int)) < -128 ∨ 127 < c.a.toInt - v.toInt - (1 - (c.c.toNat : Int)))))
    ∧ (∀ (v : Byte) (c : Cpu) (x y : Nat), c.d = true → x < 100 → y < 100 →
        c.a.toNat = x / 10 * 16 + x % 10 → v.toNat = y / 10 * 16 + y % 10 →
        ((adcOp v c).a.toNat = (x + y + c.c.toNat) % 100 / 10 * 16 + (x + y + c.c.toNat) % 10
          ∧ ((adcOp v c).c = true ↔ 99 < x + y + c.c.toNat))
        ∧ ((sbcOp v c).a.toNat = (x + 99 + c.c.toNat - y) % 100 / 10 * 16 + (x + 99 + c.c.toNat - y) % 10
          ∧ ((sbcOp v c).c = true ↔ y + 1 ≤ x + c.c.toNat)))

/-- R244, R245, R246, R270, R271, R272, R273: compares set C, Z and N from the register and the datum and leave
the register, V and D alone; AND, ORA and EOR write A, N and Z; BIT takes N and V from the datum and Z from A and
the datum. Memory operands of every form, and immediates. -/
def Obligations.CompareLogicAnswer : Prop :=
  (∀ (m : Mem) (s s1 : State) (v : Byte), readsDatum m s = true →
      busRead (effAddr m s.cpu) (poll s) = .next (v, s1) →
      exec (.cmp (.mem m)) s = .next (endInstr (mapCpu (fun c =>
          { c with c := decide (v.toNat ≤ c.a.toNat), z := c.a == v, n := (c.a - v).getLsbD 7 }) s1))
        ∧ exec (.cpx (.mem m)) s = .next (endInstr (mapCpu (fun c =>
          { c with c := decide (v.toNat ≤ c.x.toNat), z := c.x == v, n := (c.x - v).getLsbD 7 }) s1))
        ∧ exec (.cpy (.mem m)) s = .next (endInstr (mapCpu (fun c =>
          { c with c := decide (v.toNat ≤ c.y.toNat), z := c.y == v, n := (c.y - v).getLsbD 7 }) s1))
        ∧ exec (.and (.mem m)) s = .next (endInstr (mapCpu (fun c =>
          { c with a := c.a &&& v, n := (c.a &&& v).getLsbD 7, z := c.a &&& v == 0 }) s1))
        ∧ exec (.ora (.mem m)) s = .next (endInstr (mapCpu (fun c =>
          { c with a := c.a ||| v, n := (c.a ||| v).getLsbD 7, z := c.a ||| v == 0 }) s1))
        ∧ exec (.eor (.mem m)) s = .next (endInstr (mapCpu (fun c =>
          { c with a := c.a ^^^ v, n := (c.a ^^^ v).getLsbD 7, z := c.a ^^^ v == 0 }) s1))
        ∧ exec (.bit m) s = .next (endInstr (mapCpu (fun c =>
          { c with n := v.getLsbD 7, v := v.getLsbD 6, z := c.a &&& v == 0 }) s1)))
    ∧ (∀ (v : Byte) (s : State),
      exec (.cmp (.imm v)) s = .next (endInstr (mapCpu (fun c =>
          { c with c := decide (v.toNat ≤ c.a.toNat), z := c.a == v, n := (c.a - v).getLsbD 7 }) s))
        ∧ exec (.cpx (.imm v)) s = .next (endInstr (mapCpu (fun c =>
          { c with c := decide (v.toNat ≤ c.x.toNat), z := c.x == v, n := (c.x - v).getLsbD 7 }) s))
        ∧ exec (.cpy (.imm v)) s = .next (endInstr (mapCpu (fun c =>
          { c with c := decide (v.toNat ≤ c.y.toNat), z := c.y == v, n := (c.y - v).getLsbD 7 }) s))
        ∧ exec (.and (.imm v)) s = .next (endInstr (mapCpu (fun c =>
          { c with a := c.a &&& v, n := (c.a &&& v).getLsbD 7, z := c.a &&& v == 0 }) s))
        ∧ exec (.ora (.imm v)) s = .next (endInstr (mapCpu (fun c =>
          { c with a := c.a ||| v, n := (c.a ||| v).getLsbD 7, z := c.a ||| v == 0 }) s))
        ∧ exec (.eor (.imm v)) s = .next (endInstr (mapCpu (fun c =>
          { c with a := c.a ^^^ v, n := (c.a ^^^ v).getLsbD 7, z := c.a ^^^ v == 0 }) s)))


/-- R174, R247, R248: the datum's cycle of every read-modify-write reads and latches the datum. INC and DEC then
write it back unchanged and set N and Z of the result; then they write the result and end. -/
def Obligations.RmwAnswer : Prop :=
  (∀ (m : Mem) (s s1 : State) (v : Byte), s.cpu.t = datumCycle m → busRead (effAddr m s.cpu) s = .next (v, s1) →
    (∀ f ∈ [Instr.inc, .dec, .slo, .rla, .sre, .rra, .dcp, .isc],
        exec (f m) s = .next (nextCycle (mapCpu (fun c => { c with data := v }) s1)))
      ∧ (∀ f ∈ [Instr.asl, .lsr, .rol, .ror],
        exec (f (.mem m)) s = .next (nextCycle (mapCpu (fun c => { c with data := v }) s1))))
    ∧ ((∀ (m : Mem) (s s1 : State), s.cpu.t = datumCycle m + 1 → busWrite (effAddr m s.cpu) s.cpu.data s = .next s1 →
      exec (.inc m) s = .next (nextCycle (mapCpu (fun c =>
          { c with data := c.data + 1, n := (c.data + 1).getLsbD 7, z := c.data + 1 == 0 }) s1))
        ∧ exec (.dec m) s = .next (nextCycle (mapCpu (fun c =>
          { c with data := c.data - 1, n := (c.data - 1).getLsbD 7, z := c.data - 1 == 0 }) s1)))
    ∧ (∀ (m : Mem) (s s1 : State), datumCycle m + 2 ≤ s.cpu.t →
      busWrite (effAddr m s.cpu) s.cpu.data (poll s) = .next s1 →
      exec (.inc m) s = .next (endInstr s1) ∧ exec (.dec m) s = .next (endInstr s1)))

/-- R274, R275, R276, R277, R174: the shifts and rotates, on A in the cycle after the fetch, and on memory: the
datum is written back unchanged as the result, N, Z and C are computed, then the result is written. -/
def Obligations.ShiftsAnswer : Prop :=
  (∀ (s s1 : State) (v : Byte), busRead s.cpu.pc (poll s) = .next (v, s1) →
      exec (.asl .acc) s = .next (endInstr (mapCpu (fun c =>
          { c with a := c.a <<< 1, c := c.a.getLsbD 7, n := c.a.getLsbD 6, z := c.a <<< 1 == 0 }) s1))
        ∧ exec (.lsr .acc) s = .next (endInstr (mapCpu (fun c =>
          { c with a := c.a >>> 1, c := c.a.getLsbD 0, n := false, z := c.a >>> 1 == 0 }) s1))
        ∧ exec (.rol .acc) s = .next (endInstr (mapCpu (fun c =>
          { c with a := c.a.extractLsb' 0 7 ++ BitVec.ofBool c.c, c := c.a.getLsbD 7, n := c.a.getLsbD 6
                   z := c.a.extractLsb' 0 7 == 0 && !c.c }) s1))
        ∧ exec (.ror .acc) s = .next (endInstr (mapCpu (fun c =>
          { c with a := BitVec.ofBool c.c ++ c.a.extractLsb' 1 7, c := c.a.getLsbD 0, n := c.c
                   z := c.a.extractLsb' 1 7 == 0 && !c.c }) s1)))
    ∧ (∀ (m : Mem) (s s1 : State), s.cpu.t = datumCycle m + 1 → busWrite (effAddr m s.cpu) s.cpu.data s = .next s1 →
      exec (.asl (.mem m)) s = .next (nextCycle (mapCpu (fun c =>
          { c with data := c.data <<< 1, c := c.data.getLsbD 7, n := c.data.getLsbD 6, z := c.data <<< 1 == 0 }) s1))
        ∧ exec (.lsr (.mem m)) s = .next (nextCycle (mapCpu (fun c =>
          { c with data := c.data >>> 1, c := c.data.getLsbD 0, n := false, z := c.data >>> 1 == 0 }) s1))
        ∧ exec (.rol (.mem m)) s = .next (nextCycle (mapCpu (fun c =>
          { c with data := c.data.extractLsb' 0 7 ++ BitVec.ofBool c.c, c := c.data.getLsbD 7, n := c.data.getLsbD 6
                   z := c.data.extractLsb' 0 7 == 0 && !c.c }) s1))
        ∧ exec (.ror (.mem m)) s = .next (nextCycle (mapCpu (fun c =>
          { c with data := BitVec.ofBool c.c ++ c.data.extractLsb' 1 7, c := c.data.getLsbD 0, n := c.c
                   z := c.data.extractLsb' 1 7 == 0 && !c.c }) s1)))
    ∧ (∀ (m : Mem) (s s1 : State), datumCycle m + 2 ≤ s.cpu.t →
      busWrite (effAddr m s.cpu) s.cpu.data (poll s) = .next s1 →
      ∀ f ∈ [Instr.asl, .lsr, .rol, .ror], exec (f (.mem m)) s = .next (endInstr s1))

/-! ## Control flow -/

/-- R290, R169, R181, R182, R291, R177, R292, R178: JMP absolute loads PC in the cycle that fetches its last byte;
JMP indirect reads both bytes of the target from the pointer's page; JSR makes a dummy read of the stack, pushes
PC high and low (the address of its last byte) and loads PC; RTS pulls low and high and loads PC with the word
plus one. -/
def Obligations.JumpsAnswer : Prop :=
  (∀ (w : Word) (s : State), exec (.jmp (.abs w)) s = .next (endInstr (mapCpu (fun c => { c with pc := w }) s)))
    ∧ (∀ (w : Word) (s s1 : State) (l : Byte), s.cpu.t = 4 → busRead w s = .next (l, s1) →
        exec (.jmp (.ind w)) s = .next (nextCycle (mapCpu (fun c => { c with data := l }) s1)))
    ∧ (∀ (w : Word) (s s1 : State) (h : Byte), s.cpu.t = 5 →
        busRead (cat (hi w) (lo w + 1)) (poll s) = .next (h, s1) →
        exec (.jmp (.ind w)) s = .next (endInstr (mapCpu (fun c => { c with pc := cat h s.cpu.data }) s1)))
    ∧ (∀ (w : Word) (s s1 : State) (v : Byte), s.cpu.t = 3 → busRead (stackAddr s.cpu.sp) s = .next (v, s1) →
        exec (.jsr w) s = .next (nextCycle s1))
    ∧ (∀ (w : Word) (s s1 : State), s.cpu.t = 4 → busWrite (stackAddr s.cpu.sp) (hi s.cpu.pc) s = .next s1 →
        exec (.jsr w) s = .next (nextCycle (mapCpu (fun c => { c with sp := c.sp - 1 }) s1)))
    ∧ (∀ (w : Word) (s s1 : State), s.cpu.t = 5 → busWrite (stackAddr s.cpu.sp) (lo s.cpu.pc) s = .next s1 →
        exec (.jsr w) s = .next (nextCycle (mapCpu (fun c => { c with sp := c.sp - 1 }) s1)))
    ∧ (∀ (w : Word) (s : State), s.cpu.t = 6 →
        exec (.jsr w) s = .next (endInstr (mapCpu (fun c => { c with pc := w }) s)))
    ∧ (∀ (s s1 : State) (v : Byte), s.cpu.t = 2 → busRead s.cpu.pc s = .next (v, s1) →
        exec .rts s = .next (nextCycle s1))
    ∧ (∀ (s s1 : State) (v : Byte), s.cpu.t = 3 → busRead (stackAddr s.cpu.sp) s = .next (v, s1) →
        exec .rts s = .next (nextCycle (mapCpu (fun c => { c with sp := c.sp + 1 }) s1)))
    ∧ (∀ (s s1 : State) (l : Byte), s.cpu.t = 4 → busRead (stackAddr s.cpu.sp) s = .next (l, s1) →
        exec .rts s = .next (nextCycle (mapCpu (fun c => { c with data := l, sp := c.sp + 1 }) s1)))
    ∧ (∀ (s s1 : State) (h : Byte), s.cpu.t = 5 → busRead (stackAddr s.cpu.sp) s = .next (h, s1) →
        exec .rts s = .next (nextCycle (mapCpu (fun c => { c with pc := cat h s.cpu.data }) s1)))
    ∧ (∀ (s s1 : State) (v : Byte), s.cpu.t = 6 → busRead s.cpu.pc (poll s) = .next (v, s1) →
        exec .rts s = .next (endInstr (mapCpu (fun c => { c with pc := c.pc + 1 }) s1)))

/-- R171, R183, R295 to R303, R408: the eight branches, each on its flag. Not taken, the branch ends in T2 with
PC at the next instruction. Taken, without a cartridge, it ends with PC at the target, one cycle later if the
target is in the page of the next instruction and two if not. It changes no flag and no other register. -/
def Obligations.BranchAnswer : Prop :=
  ∀ p ∈ [(Instr.bpl, fun c : Cpu => !c.n), (.bmi, fun c => c.n), (.bvc, fun c => !c.v), (.bvs, fun c => c.v),
      (.bcc, fun c => !c.c), (.bcs, fun c => c.c), (.bne, fun c => !c.z), (.beq, fun c => c.z)],
    ∀ (off : Byte) (s : State), s.cpu.t = 2 →
      (p.2 s.cpu = false →
          exec (p.1 off) s = .next (endInstr (mapCpu (fun c => { c with taken := false }) s)))
        ∧ (p.2 s.cpu = true → NoCartridge s →
            ∃ t, runExec (p.1 off) (if hi (s.cpu.pc + sext16 off) = hi s.cpu.pc then 2 else 3) s = .next t
              ∧ t.cpu.seq = .boundary ∧ t.cpu.pc = s.cpu.pc + sext16 off
              ∧ Keeps [.pc] s.cpu t.cpu ∧ StoresNothing s t)

/-- R293, R179, R419, R48: RTI pulls the flags (T4), then PC low and high; the I it restores in T4 is the one its
poll reads in T6 (R407). -/
def Obligations.RtiAnswer : Prop :=
  (∀ (s s1 : State) (v : Byte), s.cpu.t = 2 → busRead s.cpu.pc s = .next (v, s1) →
      exec .rti s = .next (nextCycle s1))
    ∧ (∀ (s s1 : State) (v : Byte), s.cpu.t = 3 → busRead (stackAddr s.cpu.sp) s = .next (v, s1) →
      exec .rti s = .next (nextCycle (mapCpu (fun c => { c with sp := c.sp + 1 }) s1)))
    ∧ (∀ (s s1 : State) (v : Byte), s.cpu.t = 4 → busRead (stackAddr s.cpu.sp) s = .next (v, s1) →
      exec .rti s = .next (nextCycle (mapCpu (fun c =>
        { c with n := v.getLsbD 7, v := v.getLsbD 6, d := v.getLsbD 3, i := v.getLsbD 2, z := v.getLsbD 1
                 c := v.getLsbD 0, sp := c.sp + 1 }) s1)))
    ∧ (∀ (s s1 : State) (l : Byte), s.cpu.t = 5 → busRead (stackAddr s.cpu.sp) s = .next (l, s1) →
      exec .rti s = .next (nextCycle (mapCpu (fun c => { c with data := l, sp := c.sp + 1 }) s1)))
    ∧ (∀ (s s1 : State) (h : Byte), s.cpu.t = 6 → busRead (stackAddr s.cpu.sp) (poll s) = .next (h, s1) →
      exec .rti s = .next (endInstr (mapCpu (fun c =>
        { c with pc := cat h s.cpu.data, pollIrq := s.cpu.irqLatch && !s.cpu.i }) s1)))

/-! ## Interrupts -/

/-- R401 (4), R405, R409, R413: at a boundary the most recent poll decides what the next CPU cycle is: T1 of the NMI
sequence, else T1 of the IRQ sequence, each a dummy read at PC that leaves PC; else T1 of the next opcode (a JAM's is
in JamHalts). After a sequence or BRK it is T1 of the opcode at the new PC, whatever the most recent poll was; that
the sequencer holds this boundary apart and that the polls stand until the next poll is the model's reading (log
entry 13). -/
def Obligations.BoundaryDecides : Prop :=
  ∀ (s s1 : State) (v : Byte), busRead s.cpu.pc s = .next (v, s1) →
    (s.cpu.seq = .boundary → s.cpu.pollNmi = true →
        cpuCycle s = .next (mapCpu (fun c => { c with seq := .nmiSeq, t := 2 }) s1))
      ∧ (s.cpu.seq = .boundary → s.cpu.pollNmi = false → s.cpu.pollIrq = true →
        cpuCycle s = .next (mapCpu (fun c => { c with seq := .irqSeq, t := 2 }) s1))
      ∧ (s.cpu.seq = .boundary ∧ s.cpu.pollNmi = false ∧ s.cpu.pollIrq = false ∨ s.cpu.seq = .handler →
        (rowOf v).1 ≠ .jam →
        cpuCycle s = .next (mapCpu (fun c => { c with pc := c.pc + 1, seq := .instr v, t := 2 }) s1))

/-- R409, R410, R411, R412, R180, R294: taking an interrupt, once for the IRQ sequence, the NMI sequence and BRK,
without a cartridge. T2 of the two sequences is a dummy read at PC that leaves PC. T3 to T5 push PC high, PC low and P with the sequence's B at `$0100 | S`, decrementing S,
and choose the vector: `VEC_NMI` for the NMI sequence, and for the others if an NMI is pending, else `VEC_IRQ`. T6
and T7 read the vector, set I, clear the pending NMI if the vector is `VEC_NMI`, and load PC; D is not changed
and nothing is polled; the opcode at the new PC comes next (R413; log entry 13). BRK's T2 skips the signature byte,
and each of its cycles answers. -/
def Obligations.InterruptEntry : Prop :=
  (∀ p ∈ [(Seq.irqSeq, false), (.nmiSeq, false), (.instr 0x00, true)], ∀ s : State, s.cpu.seq = p.1 →
    (s.cpu.t = 3 → NoCartridge s → cpuRun 3 s = .next { s with
        ram := Cells.write (Cells.write (Cells.write s.ram (stackAddr s.cpu.sp).toNat (hi s.cpu.pc))
          (stackAddr (s.cpu.sp - 1)).toNat (lo s.cpu.pc)) (stackAddr (s.cpu.sp - 2)).toNat (packP p.2 s.cpu)
        cpu := { s.cpu with
          sp := s.cpu.sp - 3, t := 6
          ea := if s.cpu.seq = .nmiSeq ∨ s.cpu.nmiPending = true then s.params.vecNmi else s.params.vecIrq } })
      ∧ (∀ (l h : Byte) (s1 s2 : State), s.cpu.t = 6 → busRead s.cpu.ea s = .next (l, s1) →
        busRead (s.cpu.ea + 1) s1 = .next (h, s2) →
        cpuRun 2 s = .next { s2 with cpu := { s.cpu with
          seq := .handler, t := 1, data := l, i := true, pc := cat h l
          nmiPending := if s.cpu.ea = s.params.vecNmi then false else s.cpu.nmiPending } }))
    ∧ (∀ (s s1 : State) (v : Byte), s.cpu.seq = .irqSeq ∨ s.cpu.seq = .nmiSeq → s.cpu.t = 2 →
      busRead s.cpu.pc s = .next (v, s1) → cpuCycle s = .next (nextCycle s1))
    ∧ ((∀ (s s1 : State) (v : Byte), s.cpu.t = 2 → busRead s.cpu.pc s = .next (v, s1) →
      exec .brk s = .next (nextCycle (mapCpu (fun c => { c with pc := c.pc + 1 }) s1)))
    ∧ (∀ s s1 : State, s.cpu.t = 3 → busWrite (stackAddr s.cpu.sp) (hi s.cpu.pc) s = .next s1 →
      exec .brk s = .next (nextCycle (mapCpu (fun c => { c with sp := c.sp - 1 }) s1)))
    ∧ (∀ s s1 : State, s.cpu.t = 4 → busWrite (stackAddr s.cpu.sp) (lo s.cpu.pc) s = .next s1 →
      exec .brk s = .next (nextCycle (mapCpu (fun c => { c with sp := c.sp - 1 }) s1)))
    ∧ (∀ s s1 : State, s.cpu.t = 5 → busWrite (stackAddr s.cpu.sp) (packP true s.cpu) s = .next s1 →
      exec .brk s = .next (nextCycle (mapCpu (fun c => { c with
        sp := c.sp - 1, ea := if s.cpu.nmiPending then s.params.vecNmi else s.params.vecIrq }) s1)))
    ∧ (∀ (s s1 : State) (l : Byte), s.cpu.t = 6 → busRead s.cpu.ea s = .next (l, s1) →
      exec .brk s = .next (nextCycle (mapCpu (fun c => { c with
        data := l, i := true
        nmiPending := if s.cpu.ea = s.params.vecNmi then false else s.cpu.nmiPending }) s1)))
    ∧ (∀ (s s1 : State) (h : Byte), s.cpu.t = 7 → busRead (s.cpu.ea + 1) s = .next (h, s1) →
      exec .brk s = .next (enterHandler (mapCpu (fun c => { c with pc := cat h s.cpu.data }) s1))))


/-- R401 (2) (3), R402, R404, R408, R413: every instruction but a branch and BRK polls at the start of its last
cycle, with I as it stood before the cycle; a branch polls in T2 and in T4 and not in T3; BRK, the three sequences
and the T1 of a boundary do not poll, so the result of the most recent poll stands (R50; log entry 13). In a cycle
that its instruction has (StepKeepsSequencer). -/
def Obligations.PollRule : Prop :=
  ∀ s t : State, SequencerOk s → cpuCycle s = .next t →
    (∀ op, s.cpu.seq = .instr op → Kind.of (rowOf op).1 ≠ .branch → Kind.of (rowOf op).1 ≠ .brk →
        t.cpu.seq = .boundary →
        t.cpu.pollIrq = (s.cpu.irqLatch && !s.cpu.i) ∧ t.cpu.pollNmi = s.cpu.nmiPending)
      ∧ (∀ op, s.cpu.seq = .instr op → Kind.of (rowOf op).1 = .branch →
        (s.cpu.t = 2 ∨ s.cpu.t = 4 →
          t.cpu.pollIrq = (s.cpu.irqLatch && !s.cpu.i) ∧ t.cpu.pollNmi = s.cpu.nmiPending)
        ∧ (s.cpu.t = 3 → t.cpu.pollIrq = s.cpu.pollIrq ∧ t.cpu.pollNmi = s.cpu.pollNmi))
      ∧ (s.cpu.seq = .irqSeq ∨ s.cpu.seq = .nmiSeq ∨ s.cpu.seq = .resetSeq ∨ s.cpu.seq = .instr 0x00
          ∨ s.cpu.seq = .boundary ∨ s.cpu.seq = .handler →
        t.cpu.pollIrq = s.cpu.pollIrq ∧ t.cpu.pollNmi = s.cpu.pollNmi)

/-- R401 (1), R403, R423, R424: at the end of every master cycle, stolen or not, the IRQ latch is the IRQ line and
the NMI edge detector has seen the NMI line, both as the devices and the host leave them; a rising NMI line makes
the NMI pending. -/
def Obligations.LinesLatched : Prop :=
  ∀ s t : State, step s = .next t →
    t.cpu.irqLatch = (t.vic.irqLatch &&& t.vic.irqEnable != 0 || t.cia1.icrData &&& t.cia1.icrMask != 0
        || t.host.irqExt)
      ∧ t.cpu.nmiPrev = (t.cia2.icrData &&& t.cia2.icrMask != 0 || t.host.nmiExt)
      ∧ (t.cpu.nmiPrev = true → s.cpu.nmiPrev = false → t.cpu.nmiPending = true)

/-! ## Undocumented opcodes -/

/-- R320 to R326, R174: the combined read-modify-writes. In the cycle that writes the datum back unchanged the
result is computed, and the shifts set C; in the cycle that writes the result the second operation changes A and
the flags: OR, AND, exclusive OR, ADC with the shifted-out carry, compare, SBC. That C is set at the first write and A
with the other flags at the last is the model's reading (log entry 15). -/
def Obligations.CombinedAnswer : Prop :=
  (∀ (m : Mem) (s s1 : State), s.cpu.t = datumCycle m + 1 → busWrite (effAddr m s.cpu) s.cpu.data s = .next s1 →
      exec (.slo m) s = .next (nextCycle (mapCpu (fun c =>
          { c with data := c.data <<< 1, c := c.data.getLsbD 7 }) s1))
        ∧ exec (.rla m) s = .next (nextCycle (mapCpu (fun c =>
          { c with data := c.data.extractLsb' 0 7 ++ BitVec.ofBool c.c, c := c.data.getLsbD 7 }) s1))
        ∧ exec (.sre m) s = .next (nextCycle (mapCpu (fun c =>
          { c with data := c.data >>> 1, c := c.data.getLsbD 0 }) s1))
        ∧ exec (.rra m) s = .next (nextCycle (mapCpu (fun c =>
          { c with data := BitVec.ofBool c.c ++ c.data.extractLsb' 1 7, c := c.data.getLsbD 0 }) s1))
        ∧ exec (.dcp m) s = .next (nextCycle (mapCpu (fun c => { c with data := c.data - 1 }) s1))
        ∧ exec (.isc m) s = .next (nextCycle (mapCpu (fun c => { c with data := c.data + 1 }) s1)))
    ∧ (∀ (m : Mem) (s s1 : State) (r : Byte), datumCycle m + 2 ≤ s.cpu.t → s.cpu.data = r →
      busWrite (effAddr m s.cpu) r (poll s) = .next s1 →
      exec (.slo m) s = .next (endInstr (mapCpu (fun c =>
          { c with a := c.a ||| r, n := (c.a ||| r).getLsbD 7, z := c.a ||| r == 0 }) s1))
        ∧ exec (.rla m) s = .next (endInstr (mapCpu (fun c =>
          { c with a := c.a &&& r, n := (c.a &&& r).getLsbD 7, z := c.a &&& r == 0 }) s1))
        ∧ exec (.sre m) s = .next (endInstr (mapCpu (fun c =>
          { c with a := c.a ^^^ r, n := (c.a ^^^ r).getLsbD 7, z := c.a ^^^ r == 0 }) s1))
        ∧ exec (.rra m) s = .next (endInstr (mapCpu (adcOp r) s1))
        ∧ exec (.dcp m) s = .next (endInstr (mapCpu (fun c =>
          { c with c := decide (r.toNat ≤ c.a.toNat), z := c.a == r, n := (c.a - r).getLsbD 7 }) s1))
        ∧ exec (.isc m) s = .next (endInstr (mapCpu (sbcOp r) s1)))

/-- R329 to R332, R334, R335: the immediate-only combinations. LXA and ANE take a draw for their constant, which
nothing constrains (R9, R17): the statement holds for every value of it; how a draw is taken is the model's own (log
entry 6). -/
def Obligations.ImmediateUndocumented : Prop :=
  ∀ (v : Byte) (s : State),
    (∀ op, exec (.anc op v) s = .next (endInstr (mapCpu (fun c => { c with
        a := c.a &&& v, n := (c.a &&& v).getLsbD 7, z := c.a &&& v == 0, c := (c.a &&& v).getLsbD 7 }) s)))
      ∧ exec (.alr v) s = .next (endInstr (mapCpu (fun c => { c with
          a := (c.a &&& v) >>> 1, n := false, z := (c.a &&& v) >>> 1 == 0, c := (c.a &&& v).getLsbD 0 }) s))
      ∧ (∀ t r : Byte, t = s.cpu.a &&& v → r = BitVec.ofBool s.cpu.c ++ t.extractLsb' 1 7 →
          (s.cpu.d = false → exec (.arr v) s = .next (endInstr (mapCpu (fun c => { c with
            a := r, n := r.getLsbD 7, z := r == 0, c := r.getLsbD 6, v := r.getLsbD 6 != r.getLsbD 5 }) s)))
          ∧ (s.cpu.d = true → ∀ q w : Byte,
            q = (if 5 < (t &&& 0x0F).toNat + (t &&& 0x01).toNat then (r &&& 0xF0) ||| ((r + 6) &&& 0x0F) else r) →
            w = (if 0x50 < (t &&& 0xF0).toNat + (t &&& 0x10).toNat then (q &&& 0x0F) ||| ((q + 0x60) &&& 0xF0) else q) →
            exec (.arr v) s = .next (endInstr (mapCpu (fun c => { c with
              a := w, n := c.c, z := r == 0, v := t.getLsbD 6 != r.getLsbD 6
              c := decide (0x50 < (t &&& 0xF0).toNat + (t &&& 0x10).toNat) }) s))))
      ∧ exec (.sbx v) s = .next (endInstr (mapCpu (fun c => { c with
          x := (c.a &&& c.x) - v, n := ((c.a &&& c.x) - v).getLsbD 7, z := (c.a &&& c.x) - v == 0
          c := decide (v.toNat ≤ (c.a &&& c.x).toNat) }) s))
      ∧ (∀ k : Byte, k = Config.freeByte s.draws →
          exec (.lxa v) s = .next (endInstr (mapCpu (fun c => { c with
            a := (c.a ||| k) &&& v, x := (c.a ||| k) &&& v, n := ((c.a ||| k) &&& v).getLsbD 7
            z := (c.a ||| k) &&& v == 0 }) { s with draws := s.draws + 1 }))
          ∧ exec (.ane v) s = .next (endInstr (mapCpu (fun c => { c with
            a := (c.a ||| k) &&& c.x &&& v, n := ((c.a ||| k) &&& c.x &&& v).getLsbD 7
            z := (c.a ||| k) &&& c.x &&& v == 0 }) { s with draws := s.draws + 1 })))

/-- R337 to R341, R343: SHA, SHX, SHY and TAS write the register and the base's high byte plus one, at the
effective address, or, where the index crosses, with the value for its high byte; TAS also writes S. LAS loads A,
X and S with the datum and S. -/
def Obligations.UnstableAnswer : Prop :=
  (∀ (m : Mem) (s s1 : State) (r v : Byte) (e : Word), datumCycle m ≤ s.cpu.t → v = r &&& (hi (baseOf m s.cpu) + 1) →
      e = (if crosses m s.cpu then cat v (lo (effAddr m s.cpu)) else effAddr m s.cpu) →
      busWrite e v (poll s) = .next s1 →
      (r = s.cpu.a &&& s.cpu.x → exec (.sha m) s = .next (endInstr s1)
          ∧ exec (.tas m) s = .next (endInstr (mapCpu (fun c => { c with sp := r }) s1)))
        ∧ (r = s.cpu.x → exec (.shx m) s = .next (endInstr s1))
        ∧ (r = s.cpu.y → exec (.shy m) s = .next (endInstr s1)))
    ∧ (∀ (m : Mem) (s s1 : State) (v : Byte), readsDatum m s = true →
      busRead (effAddr m s.cpu) (poll s) = .next (v, s1) →
      exec (.las m) s = .next (endInstr (mapCpu (fun c => { c with
        a := v &&& c.sp, x := v &&& c.sp, sp := v &&& c.sp, n := (v &&& c.sp).getLsbD 7, z := v &&& c.sp == 0 }) s1)))

/-! ## Frames -/

/-- R46, R187: instructions with no memory operand store nothing and change only the registers and flags their
rules name: transfers, increments, flag instructions, NOPs, accumulator shifts, immediates, jumps, branches, JAM. -/
def Obligations.FrameRegisters : Prop :=
  ∀ s t : State,
    (∀ p ∈ [(Instr.tax, [Piece.x, .n, .z]), (.tay, [.y, .n, .z]), (.txa, [.a, .n, .z]), (.tya, [.a, .n, .z]),
        (.tsx, [.x, .n, .z]), (.txs, [.sp]), (.inx, [.x, .n, .z]), (.iny, [.y, .n, .z]), (.dex, [.x, .n, .z]),
        (.dey, [.y, .n, .z]), (.clc, [.c]), (.sec, [.c]), (.cli, [.i]), (.sei, [.i]), (.cld, [.d]), (.sed, [.d]),
        (.clv, [.v]), (.asl .acc, [.a, .n, .z, .c]), (.lsr .acc, [.a, .n, .z, .c]), (.rol .acc, [.a, .n, .z, .c]),
        (.ror .acc, [.a, .n, .z, .c])],
      exec p.1 s = .next t → Keeps p.2 s.cpu t.cpu ∧ StoresNothing s t)
      ∧ (∀ v : Byte, ∀ p ∈ [(Instr.lda (.imm v), [Piece.a, .n, .z]), (.ldx (.imm v), [.x, .n, .z]),
          (.ldy (.imm v), [.y, .n, .z]), (.adc (.imm v), [.a, .n, .z, .c, .v]), (.sbc (.imm v), [.a, .n, .z, .c, .v]),
          (.cmp (.imm v), [.n, .z, .c]), (.cpx (.imm v), [.n, .z, .c]), (.cpy (.imm v), [.n, .z, .c]),
          (.and (.imm v), [.a, .n, .z]), (.ora (.imm v), [.a, .n, .z]), (.eor (.imm v), [.a, .n, .z]),
          (.alr v, [.a, .n, .z, .c]), (.arr v, [.a, .n, .z, .c, .v]), (.ane v, [.a, .n, .z]),
          (.lxa v, [.a, .x, .n, .z]), (.sbx v, [.x, .n, .z, .c]), (.usbc v, [.a, .n, .z, .c, .v]),
          (.bpl v, [.pc]), (.bmi v, [.pc]), (.bvc v, [.pc]), (.bvs v, [.pc]), (.bcc v, [.pc]), (.bcs v, [.pc]),
          (.bne v, [.pc]), (.beq v, [.pc]), (.jam v, [.jammed])],
        exec p.1 s = .next t → Keeps p.2 s.cpu t.cpu ∧ StoresNothing s t)
      ∧ (∀ op v : Byte, ∀ p ∈ [(Instr.anc op v, [Piece.a, .n, .z, .c]), (.nop op .implied, []), (.nop op (.imm v), [])],
        exec p.1 s = .next t → Keeps p.2 s.cpu t.cpu ∧ StoresNothing s t)
      ∧ (∀ j, exec (.jmp j) s = .next t → Keeps [.pc] s.cpu t.cpu ∧ StoresNothing s t)

/-- R46, R131: in every cycle an instruction that reads a memory operand stores nothing and changes only the
registers and flags its rule names, whatever the form. -/
def Obligations.FrameReads : Prop :=
  ∀ (s t : State) (m : Mem) (op : Byte),
    ∀ p ∈ [(Instr.lda (.mem m), [Piece.a, .n, .z]), (.ldx (.mem m), [.x, .n, .z]), (.ldy (.mem m), [.y, .n, .z]),
        (.adc (.mem m), [.a, .n, .z, .c, .v]), (.sbc (.mem m), [.a, .n, .z, .c, .v]), (.cmp (.mem m), [.n, .z, .c]),
        (.cpx (.mem m), [.n, .z, .c]), (.cpy (.mem m), [.n, .z, .c]), (.and (.mem m), [.a, .n, .z]),
        (.ora (.mem m), [.a, .n, .z]), (.eor (.mem m), [.a, .n, .z]), (.bit m, [.n, .v, .z]),
        (.lax m, [.a, .x, .n, .z]), (.las m, [.a, .x, .sp, .n, .z]), (.nop op (.mem m), [])],
      exec p.1 s = .next t → Keeps p.2 s.cpu t.cpu ∧ StoresNothing s t

/-- R175, R204 to R206, R327, R343: a store changes no register and no flag (TAS: S), stores nothing before its
write cycle, and in that cycle stores at its effective address, or the unstable address, and nowhere else. -/
def Obligations.FrameStores : Prop :=
  ∀ (s t : State) (m : Mem),
    (∀ i ∈ [Instr.sta m, .stx m, .sty m, .sax m], exec i s = .next t →
      Keeps [] s.cpu t.cpu ∧ (if datumCycle m ≤ s.cpu.t then StoresAt (effAddr m s.cpu) s t else StoresNothing s t))
    ∧ (∀ p ∈ [(Instr.sha m, s.cpu.a &&& s.cpu.x, []), (.shx m, s.cpu.x, []), (.shy m, s.cpu.y, []),
        (.tas m, s.cpu.a &&& s.cpu.x, [Piece.sp])], exec p.1 s = .next t →
      Keeps p.2.2 s.cpu t.cpu ∧ (if datumCycle m ≤ s.cpu.t
        then StoresAt (unstableAddr m p.2.1 s.cpu) s t else StoresNothing s t))

/-- R174, R247, R248, R274 to R277, R320: a read-modify-write changes only the registers and flags its rule
names, stores nothing up to the cycle that reads its datum, and in its two write cycles stores at the effective
address and nowhere else. -/
def Obligations.FrameRmw : Prop :=
  ∀ (s t : State) (m : Mem),
    ∀ p ∈ [(Instr.inc m, [Piece.n, .z]), (.dec m, [.n, .z]), (.asl (.mem m), [.n, .z, .c]),
        (.lsr (.mem m), [.n, .z, .c]), (.rol (.mem m), [.n, .z, .c]), (.ror (.mem m), [.n, .z, .c]),
        (.slo m, [.a, .n, .z, .c]), (.rla m, [.a, .n, .z, .c]), (.sre m, [.a, .n, .z, .c]),
        (.rra m, [.a, .n, .z, .c, .v]), (.dcp m, [.n, .z, .c]), (.isc m, [.a, .n, .z, .c, .v])],
      exec p.1 s = .next t → Keeps p.2 s.cpu t.cpu
        ∧ (if datumCycle m < s.cpu.t then StoresAt (effAddr m s.cpu) s t else StoresNothing s t)

/-- R176 to R180: the stack instructions change only what their rules name, and store only at `$0100 | S`, in the
cycles that push: PHA and PHP from T3 on, JSR in T4 and T5, BRK in T3 to T5. -/
def Obligations.FrameStack : Prop :=
  ∀ s t : State,
    (∀ i ∈ [Instr.pha, .php], exec i s = .next t → Keeps [.sp] s.cpu t.cpu
      ∧ (if 3 ≤ s.cpu.t then StoresAt (stackAddr s.cpu.sp) s t else StoresNothing s t))
    ∧ (exec .pla s = .next t → Keeps [.sp, .a, .n, .z] s.cpu t.cpu ∧ StoresNothing s t)
    ∧ (exec .plp s = .next t → Keeps [.sp, .n, .v, .d, .i, .z, .c] s.cpu t.cpu ∧ StoresNothing s t)
    ∧ (exec .rts s = .next t → Keeps [.sp, .pc] s.cpu t.cpu ∧ StoresNothing s t)
    ∧ (exec .rti s = .next t → Keeps [.sp, .pc, .n, .v, .d, .i, .z, .c] s.cpu t.cpu ∧ StoresNothing s t)
    ∧ (∀ w, exec (.jsr w) s = .next t → Keeps [.sp, .pc] s.cpu t.cpu
      ∧ (if s.cpu.t = 4 ∨ s.cpu.t = 5 then StoresAt (stackAddr s.cpu.sp) s t else StoresNothing s t))
    ∧ (exec .brk s = .next t → Keeps [.sp, .pc, .i, .nmiPending] s.cpu t.cpu
      ∧ (if 3 ≤ s.cpu.t ∧ s.cpu.t ≤ 5 then StoresAt (stackAddr s.cpu.sp) s t else StoresNothing s t))

/-! ## The bus -/

/-- R52, R53, R82, R83, R89: the bank decode without a cartridge, region and offset, from the port's registers,
for reads and for writes; and the port at $0000 and $0001 with or without a cartridge, where that it answers writes
with a cartridge too is the model's reading (log entry 11). -/
def Obligations.BankDecode : Prop :=
  ∀ s : State,
    (∀ d a, a < 2 → regionOf s d a = .next ⟨.port, a⟩)
      ∧ (∀ L H K : Bool, NoCartridge s → L = (if s.ddr.getLsbD 0 then s.port.getLsbD 0 else true) →
        H = (if s.ddr.getLsbD 1 then s.port.getLsbD 1 else true) →
        K = (if s.ddr.getLsbD 2 then s.port.getLsbD 2 else true) →
        (∀ d a, 2 ≤ a → a < 0xA000 → regionOf s d a = .next ⟨.ram, a⟩)
          ∧ (∀ a, 0xA000 ≤ a → a < 0xC000 →
            regionOf s .read a = .next (if L = true ∧ H = true then ⟨.romBasic, a - 0xA000⟩ else ⟨.ram, a⟩)
              ∧ regionOf s .write a = .next ⟨.ram, a⟩)
          ∧ (∀ d a, 0xC000 ≤ a → a < 0xD000 → regionOf s d a = .next ⟨.ram, a⟩)
          ∧ (∀ a, 0xD000 ≤ a → a < 0xE000 →
            regionOf s .read a = .next
                (if L = false ∧ H = false then ⟨.ram, a⟩
                 else if K = true then ioTarget a else ⟨.romChar, a - 0xD000⟩)
              ∧ regionOf s .write a = .next (if (L = true ∨ H = true) ∧ K = true then ioTarget a else ⟨.ram, a⟩))
          ∧ (∀ a, 0xE000 ≤ a → a < 65536 →
            regionOf s .read a = .next (if H = true then ⟨.romKernal, a - 0xE000⟩ else ⟨.ram, a⟩)
              ∧ regionOf s .write a = .next ⟨.ram, a⟩))

/-- R84, R90, R91: the port. A read of $0000 is DDR; a read of $0001 is DATA at the outputs, 1 at the bank inputs,
the host's levels at inputs 3 to 5 and a draw at inputs 6 and 7; neither changes anything else. That a read of $0001
takes one draw whatever DDR is, and how a draw is taken, are the model's choice (log entries 24 and 6). A write sets the register and the RAM beneath,
and the decode of every later access follows the new registers. -/
def Obligations.PortRegisters : Prop :=
  ∀ (s : State) (v : Byte),
    busRead 0 s = .next (s.ddr, s)
      ∧ (∃ r : Byte, busRead 1 s = .next (r, { s with draws := s.draws + 1 })
        ∧ ∀ n, n < 8 → r.getLsbD n =
          (if s.ddr.getLsbD n then s.port.getLsbD n
           else if n < 3 then true
           else if n < 6 then s.host.portPins.getLsbD (n - 3)
           else (Config.freeByte s.draws).getLsbD n))
      ∧ busWrite 0 v s = .next { s with ddr := v, ram := Cells.write s.ram 0 v }
      ∧ busWrite 1 v s = .next { s with port := v, ram := Cells.write s.ram 1 v }
      ∧ (∀ t : State, busWrite 0 v s = .next t →
        (bankConfig t).loram = (if v.getLsbD 0 then s.port.getLsbD 0 else true)
          ∧ (bankConfig t).hiram = (if v.getLsbD 1 then s.port.getLsbD 1 else true)
          ∧ (bankConfig t).charen = (if v.getLsbD 2 then s.port.getLsbD 2 else true))
      ∧ (∀ t : State, busWrite 1 v s = .next t →
        (bankConfig t).loram = (if s.ddr.getLsbD 0 then v.getLsbD 0 else true)
          ∧ (bankConfig t).hiram = (if s.ddr.getLsbD 1 then v.getLsbD 1 else true)
          ∧ (bankConfig t).charen = (if s.ddr.getLsbD 2 then v.getLsbD 2 else true))

/-- R82, R83, R140: memory as the CPU sees it without a cartridge. RAM reads back what was written, a store to an
address at which a ROM is read leaves the ROM's byte to be read and the new one in RAM; a ROM read is the image's
byte and has no effect; and a store, at any of these, changes RAM alone and leaves every other byte of it. -/
def Obligations.MemoryReadsBack : Prop :=
  ∀ (s : State) (a : Word) (v : Byte), NoCartridge s → StorageOk s →
    (regionOf s .read a.toNat = .next ⟨.ram, a.toNat⟩ →
        busRead a s = .next (Cells.read s.ram a.toNat, s)
          ∧ ∃ t, busWrite a v s = .next t ∧ t = { s with ram := t.ram } ∧ busRead a t = .next (v, t)
            ∧ ∀ b, b ≠ a.toNat → Cells.read t.ram b = Cells.read s.ram b)
      ∧ (∀ k, regionOf s .read a.toNat = .next ⟨.romBasic, k⟩ →
        busRead a s = .next (Cells.read s.romBasic k, s)
          ∧ ∃ t, busWrite a v s = .next t ∧ t = { s with ram := t.ram }
            ∧ busRead a t = .next (Cells.read s.romBasic k, t) ∧ Cells.read t.ram a.toNat = v
            ∧ ∀ b, b ≠ a.toNat → Cells.read t.ram b = Cells.read s.ram b)
      ∧ (∀ k, regionOf s .read a.toNat = .next ⟨.romKernal, k⟩ →
        busRead a s = .next (Cells.read s.romKernal k, s)
          ∧ ∃ t, busWrite a v s = .next t ∧ t = { s with ram := t.ram }
            ∧ busRead a t = .next (Cells.read s.romKernal k, t) ∧ Cells.read t.ram a.toNat = v
            ∧ ∀ b, b ≠ a.toNat → Cells.read t.ram b = Cells.read s.ram b)
      ∧ (∀ k, regionOf s .read a.toNat = .next ⟨.romChar, k⟩ →
        busRead a s = .next (Cells.read s.romChar k, s)
          ∧ ∃ t, busWrite a v s = .next t ∧ t = { s with ram := t.ram }
            ∧ busRead a t = .next (Cells.read s.romChar k, t) ∧ Cells.read t.ram a.toNat = v
            ∧ ∀ b, b ≠ a.toNat → Cells.read t.ram b = Cells.read s.ram b)

/-- R85, R93, R94, R95: with I/O mapped, a store to colour RAM keeps the low four bits and a read returns them
under a draw; a store to the sound chip's window is an event with the mirrored address, the value and the master
cycle, and a read is a draw; a store to I/O1 or I/O2 has no effect and a read is a draw. RAM is not touched. How a
draw is taken (log entry 6), and that events go to a list (log entry 16), are the model's choice. -/
def Obligations.WindowRegisters : Prop :=
  ∀ (s : State) (a : Word) (v : Byte), IoMapped s →
    (0xD800 ≤ a.toNat → a.toNat < 0xDC00 →
        busWrite a v s = .next { s with color := Cells.write s.color (a.toNat - 0xD800) (v.extractLsb' 0 4) }
          ∧ ∃ r : Byte, busRead a s = .next (r, { s with draws := s.draws + 1 })
            ∧ r.extractLsb' 0 4 = Cells.read s.color (a.toNat - 0xD800)
            ∧ r.extractLsb' 4 4 = (Config.freeByte s.draws).extractLsb' 4 4)
      ∧ (0xD400 ≤ a.toNat → a.toNat < 0xD800 →
        (∃ e : Word, e.toNat = 0xD400 + a.toNat % 32
            ∧ busWrite a v s = .next { s with sound := s.sound ++ [⟨e, v, s.mcycle⟩] })
          ∧ busRead a s = .next (Config.freeByte s.draws, { s with draws := s.draws + 1 }))
      ∧ (0xDE00 ≤ a.toNat → a.toNat < 0xE000 →
        busWrite a v s = .next s ∧ busRead a s = .next (Config.freeByte s.draws, { s with draws := s.draws + 1 }))

/-! ## The VIC -/

/-- R430, R433, R434, R435, R436, R445: the VIC's registers on the bus, at every mirror. Every register of the map
that is a plain cell reads the byte last written, its unused bits as 1, and a store changes that cell alone. $11 and
$12: a read gives the raster line (and the cell below it), a store sets the byte of the raster compare value (and the
cell of $11). $13 and $14 read the light-pen latch and ignore a store. A store to $19 clears the latch bits written as
1 and nothing else, and storing back what $19 reads clears them all; a store to $1A writes the enable, which a read
gives. A read of $1E or $1F returns the collisions and clears them, a store is ignored. The unused $2F to $3F read $FF
and ignore a store. A read but of $1E and $1F changes nothing. That the registers which are no plain cell have no cell
under them, so that a store to $12 changes the compare value alone, is the model's reading (log entry 23). -/
def Obligations.VicRegisters : Prop :=
  ∀ (s : State) (a : Word) (v : Byte) (off : Nat), IoMapped s → 0xD000 ≤ a.toNat → a.toNat < 0xD400 →
    off = a.toNat % 64 →
    (off < 0x2F → off ∉ [0x11, 0x12, 0x13, 0x14, 0x19, 0x1A, 0x1E, 0x1F] →
        busRead a s = .next (Cells.read s.vic.cells off ||| vicOnes off, s)
          ∧ (StorageOk s → ∃ t, busWrite a v s = .next t ∧ busRead a t = .next (v ||| vicOnes off, t)
            ∧ t = { s with vic := { s.vic with cells := t.vic.cells } }
            ∧ ∀ k, k ≠ off → Cells.read t.vic.cells k = Cells.read s.vic.cells k))
      ∧ (off = 0x11 →
        (∃ r : Byte, busRead a s = .next (r, s) ∧ (r.getLsbD 7 = true ↔ 256 ≤ s.vic.line.toNat)
            ∧ r.extractLsb' 0 7 = (Cells.read s.vic.cells 0x11).extractLsb' 0 7)
          ∧ (StorageOk s → ∃ t, busWrite a v s = .next t
            ∧ t = { s with vic := { s.vic with cells := t.vic.cells, cmp := t.vic.cmp } }
            ∧ t.vic.cmp.toNat = s.vic.cmp.toNat % 256 + v.toNat / 128 * 256
            ∧ Cells.read t.vic.cells 0x11 = v
            ∧ ∀ k, k ≠ 0x11 → Cells.read t.vic.cells k = Cells.read s.vic.cells k))
      ∧ (off = 0x12 →
        (∃ r : Byte, busRead a s = .next (r, s) ∧ r.toNat = s.vic.line.toNat % 256)
          ∧ ∃ t, busWrite a v s = .next t ∧ t = { s with vic := { s.vic with cmp := t.vic.cmp } }
            ∧ t.vic.cmp.toNat = s.vic.cmp.toNat / 256 * 256 + v.toNat)
      ∧ (off = 0x13 → busRead a s = .next (s.vic.lpX, s) ∧ busWrite a v s = .next s)
      ∧ (off = 0x14 → busRead a s = .next (s.vic.lpY, s) ∧ busWrite a v s = .next s)
      ∧ (off = 0x19 →
        busWrite a v s = .next { s with vic := { s.vic with irqLatch := s.vic.irqLatch &&& ~~~(v.extractLsb' 0 4) } }
          ∧ ∃ r : Byte, busRead a s = .next (r, s) ∧ r.extractLsb' 0 4 = s.vic.irqLatch
            ∧ r.extractLsb' 4 3 = 7 ∧ r.getLsbD 7 = (s.vic.irqLatch &&& s.vic.irqEnable != 0)
            ∧ s.vic.irqLatch &&& ~~~(r.extractLsb' 0 4) = 0)
      ∧ (off = 0x1A →
        busWrite a v s = .next { s with vic := { s.vic with irqEnable := v.extractLsb' 0 4 } }
          ∧ ∃ r : Byte, busRead a s = .next (r, s) ∧ r.extractLsb' 0 4 = s.vic.irqEnable ∧ r.extractLsb' 4 4 = 15)
      ∧ (off = 0x1E → busRead a s = .next (s.vic.collMM, { s with vic := { s.vic with collMM := 0 } })
          ∧ busWrite a v s = .next s)
      ∧ (off = 0x1F → busRead a s = .next (s.vic.collMD, { s with vic := { s.vic with collMD := 0 } })
          ∧ busWrite a v s = .next s)
      ∧ (0x2F ≤ off → busRead a s = .next (0xFF, s) ∧ busWrite a v s = .next s)

/-- R433, R437, R438, R440, R441, R450: what the stages before the CPU's do to the VIC. Stage (a) switches a
sprite's DMA on in the check cycle, and counts a round down in the last cycle of its window; stage (c) sets IRST
when the raster line has become equal to the compare value and not while it stays so, sees DEN in the first
badline line, and applies the host's collisions and light pen. That a sprite whose DMA is on with 0 rounds left, which
R441 does not speak of, stays at 0 and ends its DMA is the model's choice (log entry 21); where SpritesOk holds there is
none. -/
def Obligations.VicStages : Prop :=
  ∀ (inp : CycleIn) (s t : State), t = beforeCpu inp s →
    (t.vic.irqLatch.getLsbD 0 = (s.vic.irqLatch.getLsbD 0 || (s.vic.line == s.vic.cmp && !s.vic.eqPrev))
        ∧ t.vic.eqPrev = (s.vic.line == s.vic.cmp)
        ∧ (PositionOk s → s.params.lines ≤ s.vic.cmp.toNat →
            t.vic.irqLatch.getLsbD 0 = s.vic.irqLatch.getLsbD 0))
      ∧ (t.vic.irqLatch.getLsbD 1
            = (s.vic.irqLatch.getLsbD 1 || decide (s.vic.collMD = 0 ∧ inp.collideMD ≠ 0))
          ∧ t.vic.collMD = s.vic.collMD ||| inp.collideMD
          ∧ t.vic.irqLatch.getLsbD 2
            = (s.vic.irqLatch.getLsbD 2 || decide (s.vic.collMM = 0 ∧ inp.collideMM ≠ 0))
          ∧ t.vic.collMM = s.vic.collMM ||| inp.collideMM)
      ∧ (∀ x y, inp.pen = some (x, y) → s.vic.lpSeen = false →
          t.vic.lpX = x ∧ t.vic.lpY = y ∧ t.vic.irqLatch.getLsbD 3 = true ∧ t.vic.lpSeen = true)
      ∧ (inp.pen = none ∨ s.vic.lpSeen = true →
          t.vic.lpX = s.vic.lpX ∧ t.vic.lpY = s.vic.lpY ∧ t.vic.lpSeen = s.vic.lpSeen
            ∧ t.vic.irqLatch.getLsbD 3 = s.vic.irqLatch.getLsbD 3)
      ∧ t.vic.denSeen = (s.vic.denSeen || (decide (s.vic.line.toNat = s.params.badFirstLine)
          && (Cells.read s.vic.cells 0x11).getLsbD 4))
      ∧ (∀ (n : Nat) (on : Sprite), n < 8 →
          on = (if s.vic.cyc = s.params.spriteCheckCycle ∧ (spriteAt s.vic.sprites n).dma = false
                  ∧ (Cells.read s.vic.cells 0x15).getLsbD n = true
                  ∧ (Cells.read s.vic.cells (2 * n + 1)).toNat = s.vic.line.toNat % 256
                then ⟨true, if (Cells.read s.vic.cells 0x17).getLsbD n then s.params.spriteRoundsYExp
                            else s.params.spriteRounds⟩
                else spriteAt s.vic.sprites n) →
          spriteAt t.vic.sprites n =
            (if on.dma = true ∧ winPlace s.params s.vic n + 1 = s.params.spriteWinLen
             then ⟨decide (on.left - 1 ≠ 0), on.left - 1⟩ else on))

/-- R431, R432: whatever the CPU and the host do, a master cycle that no reset comes before moves the raster
position on by one cycle, to the next line at the end of a line and to (0, 0) at the end of a frame, where the
badline and light-pen memories are cleared and the frame is signalled, and only there; that the signals go to a list is
the model's choice (log entry 16). -/
def Obligations.RasterAdvance : Prop :=
  ∀ s t : State, NoReset s → PositionOk s → step s = .next t →
    (s.vic.cyc + 1 < s.params.cpl →
        t.vic.line = s.vic.line ∧ t.vic.cyc = s.vic.cyc + 1 ∧ t.frames = s.frames)
      ∧ (s.vic.cyc + 1 = s.params.cpl → s.vic.line.toNat + 1 < s.params.lines →
        t.vic.line.toNat = s.vic.line.toNat + 1 ∧ t.vic.cyc = 0 ∧ t.frames = s.frames)
      ∧ (s.vic.cyc + 1 = s.params.cpl → s.vic.line.toNat + 1 = s.params.lines →
        t.vic.line = 0 ∧ t.vic.cyc = 0 ∧ t.vic.denSeen = false ∧ t.vic.lpSeen = false
          ∧ t.frames = s.frames ++ [s.mcycle])

/-- R439, R441, R442, R542: which cycles are stolen. A cycle's place in sprite n's window is `(raster_cyc -
SPRITE_WIN_START(n)) mod CPL`; a cycle is stolen exactly if it lies in the badline window of a badline, or if its place
in the window of a sprite whose DMA is on is below `SPRITE_WIN_LEN`. With the PAL parameters: sprite n alone stalls the
five cycles from 54 + 2n on, going round the line's 63; a line that is a badline stalls exactly the 43 cycles 11 to 53;
sprites `m` to `n` switched on together stall `3 + 2k` cycles of a line, `k = n - m + 1` of them; with neither there is
no stall. -/
def Obligations.StallCounts : Prop :=
  ((∀ (p : Params) (v : Vic) (n : Nat), 0 < p.cpl →
      (winPlace p v n : Int) = ((v.cyc : Int) - (spriteWinStart p n : Int)) % (p.cpl : Int))
    ∧ (∀ (p : Params) (v : Vic), vicStall p v = true ↔
      (badline p v = true ∧ p.badBaFirst ≤ v.cyc ∧ v.cyc ≤ p.badBaLast)
        ∨ ∃ n, n < 8 ∧ (spriteAt v.sprites n).dma = true ∧ winPlace p v n < p.spriteWinLen)
    ∧ (∀ (v : Vic) (n : Nat), n < 8 → (∀ j, j < 8 → (spriteAt v.sprites j).dma = decide (j = n)) →
      badline palParams v = false →
      ∀ c, c < 63 → vicStall palParams { v with cyc := c } = decide ((c + 63 - (54 + 2 * n) % 63) % 63 < 5)))
  ∧
  ∀ v : Vic,
    ((∀ n, n < 8 → (spriteAt v.sprites n).dma = false) → badline palParams v = true →
        ∀ c, vicStall palParams { v with cyc := c } = decide (11 ≤ c ∧ c ≤ 53))
      ∧ ((∀ n, n < 8 → (spriteAt v.sprites n).dma = false) → badline palParams v = false →
        ∀ c, vicStall palParams { v with cyc := c } = false)
      ∧ (∀ m n : Nat, m ≤ n → n < 8 → (∀ j, j < 8 → (spriteAt v.sprites j).dma = decide (m ≤ j ∧ j ≤ n)) →
        badline palParams v = false →
        ((List.range 63).filter fun c => vicStall palParams { v with cyc := c }).length = 3 + 2 * (n - m + 1))

/-! ## The CIAs -/

/-- R467, R468, R470, R471: stage (b) of a master cycle steps both CIAs, whatever the CPU does; and one such step. A
timer that does not count keeps its counter and its control register; one that counts above 1 goes down by one; one
that counts at 1 or 0 underflows, sets its flag, and reloads from its latch (continuous) or halts at zero
(one-shot). Timer A counts cycles or CNT edges; timer B also the underflows of timer A in this same stage. Host events
set their flags. -/
def Obligations.TimerRule : Prop :=
  (∀ (inp : CycleIn) (s : State), (beforeCpu inp s).cia1 = ciaStep inp.cia1 s.cia1
      ∧ (beforeCpu inp s).cia2 = ciaStep inp.cia2 s.cia2)
  ∧ ∀ (inp : CiaIn) (c d : Cia) (aRuns aUnder bRuns bUnder : Bool), d = ciaStep inp c →
    aRuns = (c.cra.getLsbD 0 && (!c.cra.getLsbD 5 || inp.cntEdge)) →
    aUnder = (aRuns && decide (c.taCounter.toNat ≤ 1)) →
    bRuns = (c.crb.getLsbD 0 && (match c.crb.getLsbD 6, c.crb.getLsbD 5 with
      | false, false => true
      | false, true => inp.cntEdge
      | true, false => aUnder
      | true, true => aUnder && inp.cntLevel)) →
    bUnder = (bRuns && decide (c.tbCounter.toNat ≤ 1)) →
    (d.taCounter = (if aUnder then (if c.cra.getLsbD 3 then 0 else c.taLatch)
          else if aRuns then c.taCounter - 1 else c.taCounter)
        ∧ d.cra = (if aUnder && c.cra.getLsbD 3 then c.cra &&& 0xFE else c.cra))
      ∧ (d.tbCounter = (if bUnder then (if c.crb.getLsbD 3 then 0 else c.tbLatch)
          else if bRuns then c.tbCounter - 1 else c.tbCounter)
        ∧ d.crb = (if bUnder && c.crb.getLsbD 3 then c.crb &&& 0xFE else c.crb))
      ∧ d.icrData.getLsbD 0 = (c.icrData.getLsbD 0 || aUnder)
      ∧ d.icrData.getLsbD 1 = (c.icrData.getLsbD 1 || bUnder)
      ∧ (∀ n, n < 3 → d.icrData.getLsbD (n + 2) = (c.icrData.getLsbD (n + 2) || inp.events.getLsbD n))
      ∧ d = { c with taCounter := d.taCounter, cra := d.cra, tbCounter := d.tbCounter, crb := d.crb
                     icrData := d.icrData }

/-- R467, R470: a continuous timer A counting cycles from a latch of `N`, at least 1, is back at `N` after exactly
`N` cycles, having underflowed in the last of them and in none before; a one-shot one is then at 0, stopped, and
stays so. -/
def Obligations.TimerPeriod : Prop :=
  ∀ (c : Cia) (k : Nat), c.cra.getLsbD 0 = true → c.cra.getLsbD 5 = false → c.taCounter = c.taLatch →
    1 ≤ c.taLatch.toNat → c.icrData = 0 → c.crb.getLsbD 0 = false →
    (k < c.taLatch.toNat →
        ((ciaStep ciaQuiet)^[k] c).taCounter.toNat = c.taLatch.toNat - k ∧ ((ciaStep ciaQuiet)^[k] c).icrData = 0)
      ∧ (c.cra.getLsbD 3 = false →
        (ciaStep ciaQuiet)^[c.taLatch.toNat] c = { c with icrData := 1 })
      ∧ (c.cra.getLsbD 3 = true → c.taLatch.toNat ≤ k →
        (ciaStep ciaQuiet)^[k] c = { c with taCounter := 0, cra := c.cra &&& 0xFE, icrData := 1 })

/-- R472, R473, R474, R477: the interrupt control registers of both CIAs on the bus, at every mirror. A read
returns IR and the flags and clears the flags in the same access, nothing else; a store sets or clears mask bits
by its bit 7 and leaves the flags. -/
def Obligations.IcrRegisters : Prop :=
  ∀ (s : State) (a : Word) (v : Byte), IoMapped s → a.toNat % 16 = 0xD →
    (0xDC00 ≤ a.toNat → a.toNat < 0xDD00 →
        (∃ r : Byte, busRead a s = .next (r, { s with cia1 := { s.cia1 with icrData := 0 } })
            ∧ r.extractLsb' 0 5 = s.cia1.icrData ∧ r.extractLsb' 5 2 = 0
            ∧ r.getLsbD 7 = (s.cia1.icrData &&& s.cia1.icrMask != 0))
          ∧ busWrite a v s = .next { s with cia1 := { s.cia1 with
              icrMask := if v.getLsbD 7 then s.cia1.icrMask ||| v.extractLsb' 0 5
                         else s.cia1.icrMask &&& ~~~(v.extractLsb' 0 5) } })
      ∧ (0xDD00 ≤ a.toNat → a.toNat < 0xDE00 →
        (∃ r : Byte, busRead a s = .next (r, { s with cia2 := { s.cia2 with icrData := 0 } })
            ∧ r.extractLsb' 0 5 = s.cia2.icrData ∧ r.extractLsb' 5 2 = 0
            ∧ r.getLsbD 7 = (s.cia2.icrData &&& s.cia2.icrMask != 0))
          ∧ busWrite a v s = .next { s with cia2 := { s.cia2 with
              icrMask := if v.getLsbD 7 then s.cia2.icrMask ||| v.extractLsb' 0 5
                         else s.cia2.icrMask &&& ~~~(v.extractLsb' 0 5) } })

/-- R460, R462, R463, R464, R469, R476: the ports, the timers and the unmodelled registers of both CIAs on the bus, at
every mirror; what is said of CIA1 is said of CIA2. A port or direction store keeps its value and does nothing else,
and a direction reads back. A store to a latch byte changes that byte alone, the counter not; a read gives the
counter. A store to a control register keeps all bits but LOAD, and reloads its counter on LOAD or on a start from
zero; a read gives it. A store to a clock register or to SDR is kept and a read is a draw; how a draw is taken is the
model's own (log entry 6). -/
def Obligations.TimerRegisters : Prop :=
  ∀ (s : State) (a : Word) (v : Byte) (c : Cia) (put : Cia → State) (off : Nat), IoMapped s → off = a.toNat % 16 →
    (0xDC00 ≤ a.toNat ∧ a.toNat < 0xDD00 ∧ c = s.cia1 ∧ put = (fun d => { s with cia1 := d }))
        ∨ (0xDD00 ≤ a.toNat ∧ a.toNat < 0xDE00 ∧ c = s.cia2 ∧ put = (fun d => { s with cia2 := d })) →
    (off = 0 → busWrite a v s = .next (put { c with pra := v }))
      ∧ (off = 1 → busWrite a v s = .next (put { c with prb := v }))
      ∧ (off = 2 → busRead a s = .next (c.ddra, s) ∧ busWrite a v s = .next (put { c with ddra := v }))
      ∧ (off = 3 → busRead a s = .next (c.ddrb, s) ∧ busWrite a v s = .next (put { c with ddrb := v }))
      ∧ (off = 4 → busRead a s = .next (lo c.taCounter, s)
        ∧ busWrite a v s = .next (put { c with taLatch := cat (hi c.taLatch) v }))
      ∧ (off = 5 → busRead a s = .next (hi c.taCounter, s)
        ∧ busWrite a v s = .next (put { c with taLatch := cat v (lo c.taLatch) }))
      ∧ (off = 6 → busRead a s = .next (lo c.tbCounter, s)
        ∧ busWrite a v s = .next (put { c with tbLatch := cat (hi c.tbLatch) v }))
      ∧ (off = 7 → busRead a s = .next (hi c.tbCounter, s)
        ∧ busWrite a v s = .next (put { c with tbLatch := cat v (lo c.tbLatch) }))
      ∧ (8 ≤ off → off ≤ 0xC →
        busRead a s = .next (Config.freeByte s.draws, { s with draws := s.draws + 1 })
          ∧ busWrite a v s = .next (put { c with
              tod10 := if off = 8 then v else c.tod10, todSec := if off = 9 then v else c.todSec
              todMin := if off = 0xA then v else c.todMin, todHr := if off = 0xB then v else c.todHr
              sdr := if off = 0xC then v else c.sdr }))
      ∧ (off = 0xE → (∃ r : Byte, busRead a s = .next (r, s) ∧ ∀ n, n < 8 → r.getLsbD n = (c.cra.getLsbD n && n != 4))
        ∧ ∃ d : Cia, busWrite a v s = .next (put d) ∧ d = { c with cra := d.cra, taCounter := d.taCounter }
          ∧ (∀ n, n < 8 → d.cra.getLsbD n = (v.getLsbD n && n != 4))
          ∧ d.taCounter = (if v.getLsbD 4 = true ∨ (v.getLsbD 0 = true ∧ c.cra.getLsbD 0 = false ∧ c.taCounter = 0)
              then c.taLatch else c.taCounter))
      ∧ (off = 0xF → (∃ r : Byte, busRead a s = .next (r, s) ∧ ∀ n, n < 8 → r.getLsbD n = (c.crb.getLsbD n && n != 4))
        ∧ ∃ d : Cia, busWrite a v s = .next (put d) ∧ d = { c with crb := d.crb, tbCounter := d.tbCounter }
          ∧ (∀ n, n < 8 → d.crb.getLsbD n = (v.getLsbD n && n != 4))
          ∧ d.tbCounter = (if v.getLsbD 4 = true ∨ (v.getLsbD 0 = true ∧ c.crb.getLsbD 0 = false ∧ c.tbCounter = 0)
              then c.tbLatch else c.tbCounter))

/-- R461: a read of CIA1's port bit is 1 exactly when the CIA drives or pulls it high, the joystick on it is not
pressed, and no pressed key connects it to a line that is driven low or held by the other joystick; a read of a
CIA2 port is the driven value and the host's pins. No side effect. -/
def Obligations.PortPins : Prop :=
  ∀ (s : State) (a : Word) (drA drB : Nat → Bool), IoMapped s →
    (∀ n, drA n = (s.cia1.pra.getLsbD n || !s.cia1.ddra.getLsbD n)) →
    (∀ n, drB n = (s.cia1.prb.getLsbD n || !s.cia1.ddrb.getLsbD n)) →
    (0xDC00 ≤ a.toNat → a.toNat < 0xDD00 → a.toNat % 16 = 0 → ∃ r : Byte, busRead a s = .next (r, s)
        ∧ ∀ c : Fin 8, r.getLsbD c = true ↔ drA c = true ∧ s.host.joy2.getLsbD c = false
          ∧ ∀ w : Fin 8, (c, w) ∈ s.host.keys → drB w = true ∧ s.host.joy1.getLsbD w = false)
      ∧ (0xDC00 ≤ a.toNat → a.toNat < 0xDD00 → a.toNat % 16 = 1 → ∃ r : Byte, busRead a s = .next (r, s)
        ∧ ∀ w : Fin 8, r.getLsbD w = true ↔ drB w = true ∧ s.host.joy1.getLsbD w = false
          ∧ ∀ c : Fin 8, (c, w) ∈ s.host.keys → drA c = true ∧ s.host.joy2.getLsbD c = false)
      ∧ (0xDD00 ≤ a.toNat → a.toNat < 0xDE00 → a.toNat % 16 = 0 →
        busRead a s = .next ((s.cia2.pra ||| ~~~s.cia2.ddra) &&& s.host.cia2PA, s))
      ∧ (0xDD00 ≤ a.toNat → a.toNat < 0xDE00 → a.toNat % 16 = 1 →
        busRead a s = .next ((s.cia2.prb ||| ~~~s.cia2.ddrb) &&& s.host.cia2PB, s))

/-! ## The load -/

/-- R503, R504: a load makes no machine exactly when a ROM image has the wrong size or a RAM image runs past the
end; a machine it makes holds the ROM images byte for byte and in RAM the bytes of the RAM images, storage in canonical
form, every device at reset and a reset pending. That the last image wins where two overlap (log entry 30), and that a
byte of RAM outside the images, a draw in R504, reads 0 (log entry 3), are the model's choice. -/
def Obligations.LoadRule : Prop :=
  ∀ (p : Params) (im : Images),
    ((∃ e, loadMachine p im = .error e) ↔ (im.basic.length ≠ 8192 ∨ im.kernal.length ≠ 8192 ∨ im.char.length ≠ 4096
        ∨ ∃ r ∈ im.ram, 65536 < r.1 + r.2.length))
      ∧ ∀ s, loadMachine p im = .machine s →
        StorageOk s ∧ s.params = p ∧ s.mcycle = 0 ∧ s.cpu.resetPending = true ∧ s.cpu.jammed = false
          ∧ s.vic = vicReset ∧ s.cia1 = ciaReset ∧ s.cia2 = ciaReset
          ∧ (∀ k, k < 8192 → Cells.read s.romBasic k = im.basic.getD k 0)
          ∧ (∀ k, k < 8192 → Cells.read s.romKernal k = im.kernal.getD k 0)
          ∧ (∀ k, k < 4096 → Cells.read s.romChar k = im.char.getD k 0)
          ∧ (∀ (before after : List (Nat × List Byte)) (r : Nat × List Byte) (k : Nat),
              im.ram = before ++ r :: after → k < r.2.length →
              (∀ q ∈ after, ¬ (q.1 ≤ r.1 + k ∧ r.1 + k < q.1 + q.2.length)) →
              Cells.read s.ram (r.1 + k) = r.2.getD k 0)
          ∧ (∀ a, (∀ r ∈ im.ram, ¬ (r.1 ≤ a ∧ a < r.1 + r.2.length)) → Cells.read s.ram a = 0)
end

