-- ==== Sys2Proof/Laws/Memory.lean ====
section
/-! SUPPORT. The laws of storage cells (Cells.lean): a read after a write, and the canonical form, which every
operation on a storage keeps. -/

namespace Sys2Proof.Machine

variable {w : Nat}

@[simp] theorem Cells.read_nil (a : Nat) : Cells.read ([] : Cells w) a = 0 := rfl

/-- A write leaves every other cell alone. -/
theorem Cells.read_write_other (m : Cells w) {a b : Nat} (v : BitVec w) (h : b ≠ a) :
    Cells.read (Cells.write m a v) b = Cells.read m b := by
  induction m with
  | nil => simp only [Cells.write]; split <;> simp [Cells.read, h]
  | cons p rest ih =>
    obtain ⟨k, u⟩ := p
    simp only [Cells.write]
    split_ifs with hk <;> simp only [Cells.read, if_neg h, ih]
    all_goals subst hk; simp [h]

/-- In canonical form from `low` on, a cell below `low` reads 0. -/
theorem Cells.read_below {size low : Nat} {m : Cells w} (h : Cells.wfFrom size low m = true) {a : Nat}
    (ha : a < low) : Cells.read m a = 0 := by
  induction m generalizing low with
  | nil => rfl
  | cons p rest ih =>
    obtain ⟨k, u⟩ := p
    simp only [Cells.wfFrom, Bool.and_eq_true, decide_eq_true_eq] at h
    have hne : a ≠ k := by omega
    simp only [Cells.read, if_neg hne]
    exact ih h.2 (by omega)

/-- A canonical form from `low` on is one from any lower bound on. -/
theorem Cells.wfFrom_mono {size low low' : Nat} {m : Cells w} (h : Cells.wfFrom size low m = true)
    (hle : low' ≤ low) : Cells.wfFrom size low' m = true := by
  cases m with
  | nil => rfl
  | cons p rest =>
    obtain ⟨k, u⟩ := p
    simp only [Cells.wfFrom, Bool.and_eq_true, decide_eq_true_eq] at h ⊢
    exact ⟨⟨⟨by omega, h.1.1.2⟩, h.1.2⟩, h.2⟩

/-- A read returns the value last written. -/
theorem Cells.read_write_same_from {size low : Nat} {m : Cells w} (h : Cells.wfFrom size low m = true) (a : Nat)
    (v : BitVec w) : Cells.read (Cells.write m a v) a = v := by
  induction m generalizing low with
  | nil => simp only [Cells.write]; split <;> simp_all [Cells.read]
  | cons p rest ih =>
    obtain ⟨k, u⟩ := p
    simp only [Cells.wfFrom, Bool.and_eq_true, decide_eq_true_eq] at h
    simp only [Cells.write]
    split_ifs with hk hv hlt hv
    · rw [hv]; exact Cells.read_below h.2 (by omega)
    · simp [Cells.read, hk]
    · rw [hv, Cells.read, if_neg hk]; exact Cells.read_below h.2 (by omega)
    · simp [Cells.read]
    · rw [Cells.read, if_neg hk]; exact ih h.2

/-- A read returns the value last written, in canonical form. -/
theorem Cells.read_write_same {size : Nat} {m : Cells w} (h : Cells.wf size m = true) (a : Nat) (v : BitVec w) :
    Cells.read (Cells.write m a v) a = v := Cells.read_write_same_from h a v

/-- A read after a write, whichever cell it is of. -/
theorem Cells.read_write {size : Nat} {m : Cells w} (h : Cells.wf size m = true) (a b : Nat) (v : BitVec w) :
    Cells.read (Cells.write m a v) b = if b = a then v else Cells.read m b := by
  by_cases hb : b = a
  · subst hb; simp [Cells.read_write_same h]
  · simp [Cells.read_write_other m v hb, hb]

/-- A write of a cell from `low` on keeps the canonical form from `low` on. -/
theorem Cells.wfFrom_write {size low : Nat} {m : Cells w} (h : Cells.wfFrom size low m = true) {a : Nat}
    (v : BitVec w) (hlow : low ≤ a) (ha : a < size) : Cells.wfFrom size low (Cells.write m a v) = true := by
  induction m generalizing low with
  | nil => simp only [Cells.write]; split <;> simp_all [Cells.wfFrom]
  | cons p rest ih =>
    obtain ⟨k, u⟩ := p
    simp only [Cells.wfFrom, Bool.and_eq_true, decide_eq_true_eq] at h
    simp only [Cells.write]
    split_ifs with hk hv hlt hv <;> try simp only [Cells.wfFrom, Bool.and_eq_true, decide_eq_true_eq]
    · exact Cells.wfFrom_mono h.2 (by omega)
    · exact ⟨⟨h.1.1, hv⟩, h.2⟩
    · exact h
    · exact ⟨⟨⟨hlow, ha⟩, hv⟩, ⟨⟨by omega, h.1.1.2⟩, h.1.2⟩, h.2⟩
    · exact ⟨h.1, ih h.2 (by omega)⟩

/-- A write keeps the canonical form. -/
theorem Cells.wf_write {size : Nat} {m : Cells w} (h : Cells.wf size m = true) {a : Nat} (v : BitVec w)
    (ha : a < size) : Cells.wf size (Cells.write m a v) = true := Cells.wfFrom_write h v (Nat.zero_le a) ha

/-- Storing an image keeps the canonical form. -/
theorem Cells.wf_writeAll {size : Nat} (vs : List (BitVec w)) {m : Cells w} (h : Cells.wf size m = true)
    {base : Nat} (hb : base + vs.length ≤ size) : Cells.wf size (Cells.writeAll m base vs) = true := by
  induction vs generalizing m base with
  | nil => exact h
  | cons v rest ih =>
    simp only [List.length_cons] at hb
    exact ih (Cells.wf_write h v (by omega)) (by omega)

/-- The empty storage is in canonical form. -/
@[simp] theorem Cells.wf_nil (size : Nat) : Cells.wf size ([] : Cells w) = true := rfl

/-- A write of RAM keeps its canonical form, at every address. -/
theorem Memory.wf_write {m : Memory} (h : Memory.wf m) (a : Word) (v : Byte) :
    Memory.wf (Cells.write m a.toNat v) := Cells.wf_write h v a.isLt

/-- RAM is in canonical form at reset. -/
theorem Memory.wf_reset : Memory.wf State.reset.ram := by decide

end Sys2Proof.Machine
end

