-- ==== Sys2Proof/Laws/State.lean ====
section
/-! SUPPORT. What each named update of the state does to each field: one lemma per field per update, so that no
later proof unfolds a record update. First the updates of the whole state, then those of the CPU alone. -/

namespace Sys2Proof.Machine

/-! ### `mapCpu` -/

@[simp] theorem mapCpu_cpu (f : Cpu → Cpu) (s : State) : (mapCpu f s).cpu = f s.cpu := rfl
@[simp] theorem mapCpu_ddr (f : Cpu → Cpu) (s : State) : (mapCpu f s).ddr = s.ddr := rfl
@[simp] theorem mapCpu_port (f : Cpu → Cpu) (s : State) : (mapCpu f s).port = s.port := rfl
@[simp] theorem mapCpu_ram (f : Cpu → Cpu) (s : State) : (mapCpu f s).ram = s.ram := rfl
@[simp] theorem mapCpu_color (f : Cpu → Cpu) (s : State) : (mapCpu f s).color = s.color := rfl
@[simp] theorem mapCpu_romBasic (f : Cpu → Cpu) (s : State) : (mapCpu f s).romBasic = s.romBasic := rfl
@[simp] theorem mapCpu_romKernal (f : Cpu → Cpu) (s : State) : (mapCpu f s).romKernal = s.romKernal := rfl
@[simp] theorem mapCpu_romChar (f : Cpu → Cpu) (s : State) : (mapCpu f s).romChar = s.romChar := rfl
@[simp] theorem mapCpu_vic (f : Cpu → Cpu) (s : State) : (mapCpu f s).vic = s.vic := rfl
@[simp] theorem mapCpu_cia1 (f : Cpu → Cpu) (s : State) : (mapCpu f s).cia1 = s.cia1 := rfl
@[simp] theorem mapCpu_cia2 (f : Cpu → Cpu) (s : State) : (mapCpu f s).cia2 = s.cia2 := rfl
@[simp] theorem mapCpu_mcycle (f : Cpu → Cpu) (s : State) : (mapCpu f s).mcycle = s.mcycle := rfl
@[simp] theorem mapCpu_params (f : Cpu → Cpu) (s : State) : (mapCpu f s).params = s.params := rfl
@[simp] theorem mapCpu_host (f : Cpu → Cpu) (s : State) : (mapCpu f s).host = s.host := rfl
@[simp] theorem mapCpu_inputs (f : Cpu → Cpu) (s : State) : (mapCpu f s).inputs = s.inputs := rfl
@[simp] theorem mapCpu_sound (f : Cpu → Cpu) (s : State) : (mapCpu f s).sound = s.sound := rfl
@[simp] theorem mapCpu_frames (f : Cpu → Cpu) (s : State) : (mapCpu f s).frames = s.frames := rfl
@[simp] theorem mapCpu_snapshot (f : Cpu → Cpu) (s : State) : (mapCpu f s).snapshot = s.snapshot := rfl
@[simp] theorem mapCpu_draws (f : Cpu → Cpu) (s : State) : (mapCpu f s).draws = s.draws := rfl

/-! ### `drawn` -/

@[simp] theorem drawn_cpu (s : State) : (drawn s).cpu = s.cpu := rfl
@[simp] theorem drawn_ddr (s : State) : (drawn s).ddr = s.ddr := rfl
@[simp] theorem drawn_port (s : State) : (drawn s).port = s.port := rfl
@[simp] theorem drawn_ram (s : State) : (drawn s).ram = s.ram := rfl
@[simp] theorem drawn_color (s : State) : (drawn s).color = s.color := rfl
@[simp] theorem drawn_romBasic (s : State) : (drawn s).romBasic = s.romBasic := rfl
@[simp] theorem drawn_romKernal (s : State) : (drawn s).romKernal = s.romKernal := rfl
@[simp] theorem drawn_romChar (s : State) : (drawn s).romChar = s.romChar := rfl
@[simp] theorem drawn_vic (s : State) : (drawn s).vic = s.vic := rfl
@[simp] theorem drawn_cia1 (s : State) : (drawn s).cia1 = s.cia1 := rfl
@[simp] theorem drawn_cia2 (s : State) : (drawn s).cia2 = s.cia2 := rfl
@[simp] theorem drawn_mcycle (s : State) : (drawn s).mcycle = s.mcycle := rfl
@[simp] theorem drawn_params (s : State) : (drawn s).params = s.params := rfl
@[simp] theorem drawn_host (s : State) : (drawn s).host = s.host := rfl
@[simp] theorem drawn_inputs (s : State) : (drawn s).inputs = s.inputs := rfl
@[simp] theorem drawn_sound (s : State) : (drawn s).sound = s.sound := rfl
@[simp] theorem drawn_frames (s : State) : (drawn s).frames = s.frames := rfl
@[simp] theorem drawn_snapshot (s : State) : (drawn s).snapshot = s.snapshot := rfl
@[simp] theorem drawn_draws (s : State) : (drawn s).draws = s.draws + 1 := rfl

/-! ### `nextCycle` -/

@[simp] theorem nextCycle_cpu (s : State) : (nextCycle s).cpu = { s.cpu with t := s.cpu.t + 1 } := rfl
@[simp] theorem nextCycle_ddr (s : State) : (nextCycle s).ddr = s.ddr := rfl
@[simp] theorem nextCycle_port (s : State) : (nextCycle s).port = s.port := rfl
@[simp] theorem nextCycle_ram (s : State) : (nextCycle s).ram = s.ram := rfl
@[simp] theorem nextCycle_color (s : State) : (nextCycle s).color = s.color := rfl
@[simp] theorem nextCycle_romBasic (s : State) : (nextCycle s).romBasic = s.romBasic := rfl
@[simp] theorem nextCycle_romKernal (s : State) : (nextCycle s).romKernal = s.romKernal := rfl
@[simp] theorem nextCycle_romChar (s : State) : (nextCycle s).romChar = s.romChar := rfl
@[simp] theorem nextCycle_vic (s : State) : (nextCycle s).vic = s.vic := rfl
@[simp] theorem nextCycle_cia1 (s : State) : (nextCycle s).cia1 = s.cia1 := rfl
@[simp] theorem nextCycle_cia2 (s : State) : (nextCycle s).cia2 = s.cia2 := rfl
@[simp] theorem nextCycle_mcycle (s : State) : (nextCycle s).mcycle = s.mcycle := rfl
@[simp] theorem nextCycle_params (s : State) : (nextCycle s).params = s.params := rfl
@[simp] theorem nextCycle_host (s : State) : (nextCycle s).host = s.host := rfl
@[simp] theorem nextCycle_inputs (s : State) : (nextCycle s).inputs = s.inputs := rfl
@[simp] theorem nextCycle_sound (s : State) : (nextCycle s).sound = s.sound := rfl
@[simp] theorem nextCycle_frames (s : State) : (nextCycle s).frames = s.frames := rfl
@[simp] theorem nextCycle_snapshot (s : State) : (nextCycle s).snapshot = s.snapshot := rfl
@[simp] theorem nextCycle_draws (s : State) : (nextCycle s).draws = s.draws := rfl

/-! ### `endInstr` -/

@[simp] theorem endInstr_cpu (s : State) : (endInstr s).cpu = { s.cpu with seq := .boundary, t := 1 } := rfl
@[simp] theorem endInstr_ddr (s : State) : (endInstr s).ddr = s.ddr := rfl
@[simp] theorem endInstr_port (s : State) : (endInstr s).port = s.port := rfl
@[simp] theorem endInstr_ram (s : State) : (endInstr s).ram = s.ram := rfl
@[simp] theorem endInstr_color (s : State) : (endInstr s).color = s.color := rfl
@[simp] theorem endInstr_romBasic (s : State) : (endInstr s).romBasic = s.romBasic := rfl
@[simp] theorem endInstr_romKernal (s : State) : (endInstr s).romKernal = s.romKernal := rfl
@[simp] theorem endInstr_romChar (s : State) : (endInstr s).romChar = s.romChar := rfl
@[simp] theorem endInstr_vic (s : State) : (endInstr s).vic = s.vic := rfl
@[simp] theorem endInstr_cia1 (s : State) : (endInstr s).cia1 = s.cia1 := rfl
@[simp] theorem endInstr_cia2 (s : State) : (endInstr s).cia2 = s.cia2 := rfl
@[simp] theorem endInstr_mcycle (s : State) : (endInstr s).mcycle = s.mcycle := rfl
@[simp] theorem endInstr_params (s : State) : (endInstr s).params = s.params := rfl
@[simp] theorem endInstr_host (s : State) : (endInstr s).host = s.host := rfl
@[simp] theorem endInstr_inputs (s : State) : (endInstr s).inputs = s.inputs := rfl
@[simp] theorem endInstr_sound (s : State) : (endInstr s).sound = s.sound := rfl
@[simp] theorem endInstr_frames (s : State) : (endInstr s).frames = s.frames := rfl
@[simp] theorem endInstr_snapshot (s : State) : (endInstr s).snapshot = s.snapshot := rfl
@[simp] theorem endInstr_draws (s : State) : (endInstr s).draws = s.draws := rfl

/-! ### `poll` -/

@[simp] theorem poll_cpu (s : State) : (poll s).cpu = { s.cpu with pollIrq := s.cpu.irqLatch && !s.cpu.i, pollNmi := s.cpu.nmiPending } := rfl
@[simp] theorem poll_ddr (s : State) : (poll s).ddr = s.ddr := rfl
@[simp] theorem poll_port (s : State) : (poll s).port = s.port := rfl
@[simp] theorem poll_ram (s : State) : (poll s).ram = s.ram := rfl
@[simp] theorem poll_color (s : State) : (poll s).color = s.color := rfl
@[simp] theorem poll_romBasic (s : State) : (poll s).romBasic = s.romBasic := rfl
@[simp] theorem poll_romKernal (s : State) : (poll s).romKernal = s.romKernal := rfl
@[simp] theorem poll_romChar (s : State) : (poll s).romChar = s.romChar := rfl
@[simp] theorem poll_vic (s : State) : (poll s).vic = s.vic := rfl
@[simp] theorem poll_cia1 (s : State) : (poll s).cia1 = s.cia1 := rfl
@[simp] theorem poll_cia2 (s : State) : (poll s).cia2 = s.cia2 := rfl
@[simp] theorem poll_mcycle (s : State) : (poll s).mcycle = s.mcycle := rfl
@[simp] theorem poll_params (s : State) : (poll s).params = s.params := rfl
@[simp] theorem poll_host (s : State) : (poll s).host = s.host := rfl
@[simp] theorem poll_inputs (s : State) : (poll s).inputs = s.inputs := rfl
@[simp] theorem poll_sound (s : State) : (poll s).sound = s.sound := rfl
@[simp] theorem poll_frames (s : State) : (poll s).frames = s.frames := rfl
@[simp] theorem poll_snapshot (s : State) : (poll s).snapshot = s.snapshot := rfl
@[simp] theorem poll_draws (s : State) : (poll s).draws = s.draws := rfl

/-! ### `enterHandler` -/

@[simp] theorem enterHandler_cpu (s : State) : (enterHandler s).cpu = { s.cpu with seq := .handler, t := 1 } := rfl
@[simp] theorem enterHandler_ddr (s : State) : (enterHandler s).ddr = s.ddr := rfl
@[simp] theorem enterHandler_port (s : State) : (enterHandler s).port = s.port := rfl
@[simp] theorem enterHandler_ram (s : State) : (enterHandler s).ram = s.ram := rfl
@[simp] theorem enterHandler_color (s : State) : (enterHandler s).color = s.color := rfl
@[simp] theorem enterHandler_romBasic (s : State) : (enterHandler s).romBasic = s.romBasic := rfl
@[simp] theorem enterHandler_romKernal (s : State) : (enterHandler s).romKernal = s.romKernal := rfl
@[simp] theorem enterHandler_romChar (s : State) : (enterHandler s).romChar = s.romChar := rfl
@[simp] theorem enterHandler_vic (s : State) : (enterHandler s).vic = s.vic := rfl
@[simp] theorem enterHandler_cia1 (s : State) : (enterHandler s).cia1 = s.cia1 := rfl
@[simp] theorem enterHandler_cia2 (s : State) : (enterHandler s).cia2 = s.cia2 := rfl
@[simp] theorem enterHandler_mcycle (s : State) : (enterHandler s).mcycle = s.mcycle := rfl
@[simp] theorem enterHandler_params (s : State) : (enterHandler s).params = s.params := rfl
@[simp] theorem enterHandler_host (s : State) : (enterHandler s).host = s.host := rfl
@[simp] theorem enterHandler_inputs (s : State) : (enterHandler s).inputs = s.inputs := rfl
@[simp] theorem enterHandler_sound (s : State) : (enterHandler s).sound = s.sound := rfl
@[simp] theorem enterHandler_frames (s : State) : (enterHandler s).frames = s.frames := rfl
@[simp] theorem enterHandler_snapshot (s : State) : (enterHandler s).snapshot = s.snapshot := rfl
@[simp] theorem enterHandler_draws (s : State) : (enterHandler s).draws = s.draws := rfl

/-! ### `beginSeq` -/

@[simp] theorem beginSeq_cpu (q : Seq) (s : State) : (beginSeq q s).cpu = { s.cpu with seq := q, t := 1 } := rfl
@[simp] theorem beginSeq_ddr (q : Seq) (s : State) : (beginSeq q s).ddr = s.ddr := rfl
@[simp] theorem beginSeq_port (q : Seq) (s : State) : (beginSeq q s).port = s.port := rfl
@[simp] theorem beginSeq_ram (q : Seq) (s : State) : (beginSeq q s).ram = s.ram := rfl
@[simp] theorem beginSeq_color (q : Seq) (s : State) : (beginSeq q s).color = s.color := rfl
@[simp] theorem beginSeq_romBasic (q : Seq) (s : State) : (beginSeq q s).romBasic = s.romBasic := rfl
@[simp] theorem beginSeq_romKernal (q : Seq) (s : State) : (beginSeq q s).romKernal = s.romKernal := rfl
@[simp] theorem beginSeq_romChar (q : Seq) (s : State) : (beginSeq q s).romChar = s.romChar := rfl
@[simp] theorem beginSeq_vic (q : Seq) (s : State) : (beginSeq q s).vic = s.vic := rfl
@[simp] theorem beginSeq_cia1 (q : Seq) (s : State) : (beginSeq q s).cia1 = s.cia1 := rfl
@[simp] theorem beginSeq_cia2 (q : Seq) (s : State) : (beginSeq q s).cia2 = s.cia2 := rfl
@[simp] theorem beginSeq_mcycle (q : Seq) (s : State) : (beginSeq q s).mcycle = s.mcycle := rfl
@[simp] theorem beginSeq_params (q : Seq) (s : State) : (beginSeq q s).params = s.params := rfl
@[simp] theorem beginSeq_host (q : Seq) (s : State) : (beginSeq q s).host = s.host := rfl
@[simp] theorem beginSeq_inputs (q : Seq) (s : State) : (beginSeq q s).inputs = s.inputs := rfl
@[simp] theorem beginSeq_sound (q : Seq) (s : State) : (beginSeq q s).sound = s.sound := rfl
@[simp] theorem beginSeq_frames (q : Seq) (s : State) : (beginSeq q s).frames = s.frames := rfl
@[simp] theorem beginSeq_snapshot (q : Seq) (s : State) : (beginSeq q s).snapshot = s.snapshot := rfl
@[simp] theorem beginSeq_draws (q : Seq) (s : State) : (beginSeq q s).draws = s.draws := rfl

/-! ### `applyReset` -/

@[simp] theorem applyReset_cpu (s : State) : (applyReset s).cpu = applyCpuReset s.cpu := rfl
@[simp] theorem applyReset_ddr (s : State) : (applyReset s).ddr = 0 := rfl
@[simp] theorem applyReset_port (s : State) : (applyReset s).port = 0 := rfl
@[simp] theorem applyReset_ram (s : State) : (applyReset s).ram = s.ram := rfl
@[simp] theorem applyReset_color (s : State) : (applyReset s).color = s.color := rfl
@[simp] theorem applyReset_romBasic (s : State) : (applyReset s).romBasic = s.romBasic := rfl
@[simp] theorem applyReset_romKernal (s : State) : (applyReset s).romKernal = s.romKernal := rfl
@[simp] theorem applyReset_romChar (s : State) : (applyReset s).romChar = s.romChar := rfl
@[simp] theorem applyReset_vic (s : State) : (applyReset s).vic = vicReset := rfl
@[simp] theorem applyReset_cia1 (s : State) : (applyReset s).cia1 = ciaReset := rfl
@[simp] theorem applyReset_cia2 (s : State) : (applyReset s).cia2 = ciaReset := rfl
@[simp] theorem applyReset_mcycle (s : State) : (applyReset s).mcycle = s.mcycle := rfl
@[simp] theorem applyReset_params (s : State) : (applyReset s).params = s.params := rfl
@[simp] theorem applyReset_host (s : State) : (applyReset s).host = s.host := rfl
@[simp] theorem applyReset_inputs (s : State) : (applyReset s).inputs = s.inputs := rfl
@[simp] theorem applyReset_sound (s : State) : (applyReset s).sound = s.sound := rfl
@[simp] theorem applyReset_frames (s : State) : (applyReset s).frames = s.frames := rfl
@[simp] theorem applyReset_snapshot (s : State) : (applyReset s).snapshot = s.snapshot := rfl
@[simp] theorem applyReset_draws (s : State) : (applyReset s).draws = s.draws := rfl

/-! ### `stageA` -/

@[simp] theorem stageA_cpu (s : State) : (stageA s).cpu = s.cpu := rfl
@[simp] theorem stageA_ddr (s : State) : (stageA s).ddr = s.ddr := rfl
@[simp] theorem stageA_port (s : State) : (stageA s).port = s.port := rfl
@[simp] theorem stageA_ram (s : State) : (stageA s).ram = s.ram := rfl
@[simp] theorem stageA_color (s : State) : (stageA s).color = s.color := rfl
@[simp] theorem stageA_romBasic (s : State) : (stageA s).romBasic = s.romBasic := rfl
@[simp] theorem stageA_romKernal (s : State) : (stageA s).romKernal = s.romKernal := rfl
@[simp] theorem stageA_romChar (s : State) : (stageA s).romChar = s.romChar := rfl
@[simp] theorem stageA_vic (s : State) : (stageA s).vic = spriteCountdown s.params (arbiterVic s) := rfl
@[simp] theorem stageA_cia1 (s : State) : (stageA s).cia1 = s.cia1 := rfl
@[simp] theorem stageA_cia2 (s : State) : (stageA s).cia2 = s.cia2 := rfl
@[simp] theorem stageA_mcycle (s : State) : (stageA s).mcycle = s.mcycle := rfl
@[simp] theorem stageA_params (s : State) : (stageA s).params = s.params := rfl
@[simp] theorem stageA_host (s : State) : (stageA s).host = s.host := rfl
@[simp] theorem stageA_inputs (s : State) : (stageA s).inputs = s.inputs := rfl
@[simp] theorem stageA_sound (s : State) : (stageA s).sound = s.sound := rfl
@[simp] theorem stageA_frames (s : State) : (stageA s).frames = s.frames := rfl
@[simp] theorem stageA_snapshot (s : State) : (stageA s).snapshot = snapshotOf s.mcycle s.vic := rfl
@[simp] theorem stageA_draws (s : State) : (stageA s).draws = s.draws := rfl

/-! ### `stageB` -/

@[simp] theorem stageB_cpu (inp : CycleIn) (s : State) : (stageB inp s).cpu = s.cpu := rfl
@[simp] theorem stageB_ddr (inp : CycleIn) (s : State) : (stageB inp s).ddr = s.ddr := rfl
@[simp] theorem stageB_port (inp : CycleIn) (s : State) : (stageB inp s).port = s.port := rfl
@[simp] theorem stageB_ram (inp : CycleIn) (s : State) : (stageB inp s).ram = s.ram := rfl
@[simp] theorem stageB_color (inp : CycleIn) (s : State) : (stageB inp s).color = s.color := rfl
@[simp] theorem stageB_romBasic (inp : CycleIn) (s : State) : (stageB inp s).romBasic = s.romBasic := rfl
@[simp] theorem stageB_romKernal (inp : CycleIn) (s : State) : (stageB inp s).romKernal = s.romKernal := rfl
@[simp] theorem stageB_romChar (inp : CycleIn) (s : State) : (stageB inp s).romChar = s.romChar := rfl
@[simp] theorem stageB_vic (inp : CycleIn) (s : State) : (stageB inp s).vic = s.vic := rfl
@[simp] theorem stageB_cia1 (inp : CycleIn) (s : State) : (stageB inp s).cia1 = ciaStep inp.cia1 s.cia1 := rfl
@[simp] theorem stageB_cia2 (inp : CycleIn) (s : State) : (stageB inp s).cia2 = ciaStep inp.cia2 s.cia2 := rfl
@[simp] theorem stageB_mcycle (inp : CycleIn) (s : State) : (stageB inp s).mcycle = s.mcycle := rfl
@[simp] theorem stageB_params (inp : CycleIn) (s : State) : (stageB inp s).params = s.params := rfl
@[simp] theorem stageB_host (inp : CycleIn) (s : State) : (stageB inp s).host = s.host := rfl
@[simp] theorem stageB_inputs (inp : CycleIn) (s : State) : (stageB inp s).inputs = s.inputs := rfl
@[simp] theorem stageB_sound (inp : CycleIn) (s : State) : (stageB inp s).sound = s.sound := rfl
@[simp] theorem stageB_frames (inp : CycleIn) (s : State) : (stageB inp s).frames = s.frames := rfl
@[simp] theorem stageB_snapshot (inp : CycleIn) (s : State) : (stageB inp s).snapshot = s.snapshot := rfl
@[simp] theorem stageB_draws (inp : CycleIn) (s : State) : (stageB inp s).draws = s.draws := rfl

/-! ### `stageC` -/

@[simp] theorem stageC_cpu (inp : CycleIn) (s : State) : (stageC inp s).cpu = s.cpu := rfl
@[simp] theorem stageC_ddr (inp : CycleIn) (s : State) : (stageC inp s).ddr = s.ddr := rfl
@[simp] theorem stageC_port (inp : CycleIn) (s : State) : (stageC inp s).port = s.port := rfl
@[simp] theorem stageC_ram (inp : CycleIn) (s : State) : (stageC inp s).ram = s.ram := rfl
@[simp] theorem stageC_color (inp : CycleIn) (s : State) : (stageC inp s).color = s.color := rfl
@[simp] theorem stageC_romBasic (inp : CycleIn) (s : State) : (stageC inp s).romBasic = s.romBasic := rfl
@[simp] theorem stageC_romKernal (inp : CycleIn) (s : State) : (stageC inp s).romKernal = s.romKernal := rfl
@[simp] theorem stageC_romChar (inp : CycleIn) (s : State) : (stageC inp s).romChar = s.romChar := rfl
@[simp] theorem stageC_vic (inp : CycleIn) (s : State) : (stageC inp s).vic = lightPen inp.pen (collideMD inp.collideMD (collideMM inp.collideMM (denUpdate s.params (rasterCompare s.vic)))) := rfl
@[simp] theorem stageC_cia1 (inp : CycleIn) (s : State) : (stageC inp s).cia1 = s.cia1 := rfl
@[simp] theorem stageC_cia2 (inp : CycleIn) (s : State) : (stageC inp s).cia2 = s.cia2 := rfl
@[simp] theorem stageC_mcycle (inp : CycleIn) (s : State) : (stageC inp s).mcycle = s.mcycle := rfl
@[simp] theorem stageC_params (inp : CycleIn) (s : State) : (stageC inp s).params = s.params := rfl
@[simp] theorem stageC_host (inp : CycleIn) (s : State) : (stageC inp s).host = s.host := rfl
@[simp] theorem stageC_inputs (inp : CycleIn) (s : State) : (stageC inp s).inputs = s.inputs := rfl
@[simp] theorem stageC_sound (inp : CycleIn) (s : State) : (stageC inp s).sound = s.sound := rfl
@[simp] theorem stageC_frames (inp : CycleIn) (s : State) : (stageC inp s).frames = s.frames := rfl
@[simp] theorem stageC_snapshot (inp : CycleIn) (s : State) : (stageC inp s).snapshot = s.snapshot := rfl
@[simp] theorem stageC_draws (inp : CycleIn) (s : State) : (stageC inp s).draws = s.draws := rfl

/-! ### `stageE` -/

@[simp] theorem stageE_cpu (s : State) : (stageE s).cpu = { s.cpu with irqLatch := irqLine s, nmiPending := s.cpu.nmiPending || (nmiLine s && !s.cpu.nmiPrev), nmiPrev := nmiLine s } := rfl
@[simp] theorem stageE_ddr (s : State) : (stageE s).ddr = s.ddr := rfl
@[simp] theorem stageE_port (s : State) : (stageE s).port = s.port := rfl
@[simp] theorem stageE_ram (s : State) : (stageE s).ram = s.ram := rfl
@[simp] theorem stageE_color (s : State) : (stageE s).color = s.color := rfl
@[simp] theorem stageE_romBasic (s : State) : (stageE s).romBasic = s.romBasic := rfl
@[simp] theorem stageE_romKernal (s : State) : (stageE s).romKernal = s.romKernal := rfl
@[simp] theorem stageE_romChar (s : State) : (stageE s).romChar = s.romChar := rfl
@[simp] theorem stageE_vic (s : State) : (stageE s).vic = s.vic := rfl
@[simp] theorem stageE_cia1 (s : State) : (stageE s).cia1 = s.cia1 := rfl
@[simp] theorem stageE_cia2 (s : State) : (stageE s).cia2 = s.cia2 := rfl
@[simp] theorem stageE_mcycle (s : State) : (stageE s).mcycle = s.mcycle := rfl
@[simp] theorem stageE_params (s : State) : (stageE s).params = s.params := rfl
@[simp] theorem stageE_host (s : State) : (stageE s).host = s.host := rfl
@[simp] theorem stageE_inputs (s : State) : (stageE s).inputs = s.inputs := rfl
@[simp] theorem stageE_sound (s : State) : (stageE s).sound = s.sound := rfl
@[simp] theorem stageE_frames (s : State) : (stageE s).frames = s.frames := rfl
@[simp] theorem stageE_snapshot (s : State) : (stageE s).snapshot = s.snapshot := rfl
@[simp] theorem stageE_draws (s : State) : (stageE s).draws = s.draws := rfl

/-! ### `stageF` -/

@[simp] theorem stageF_cpu (s : State) : (stageF s).cpu = s.cpu := rfl
@[simp] theorem stageF_ddr (s : State) : (stageF s).ddr = s.ddr := rfl
@[simp] theorem stageF_port (s : State) : (stageF s).port = s.port := rfl
@[simp] theorem stageF_ram (s : State) : (stageF s).ram = s.ram := rfl
@[simp] theorem stageF_color (s : State) : (stageF s).color = s.color := rfl
@[simp] theorem stageF_romBasic (s : State) : (stageF s).romBasic = s.romBasic := rfl
@[simp] theorem stageF_romKernal (s : State) : (stageF s).romKernal = s.romKernal := rfl
@[simp] theorem stageF_romChar (s : State) : (stageF s).romChar = s.romChar := rfl
@[simp] theorem stageF_vic (s : State) : (stageF s).vic = vicAdvance s.params s.vic := rfl
@[simp] theorem stageF_cia1 (s : State) : (stageF s).cia1 = s.cia1 := rfl
@[simp] theorem stageF_cia2 (s : State) : (stageF s).cia2 = s.cia2 := rfl
@[simp] theorem stageF_mcycle (s : State) : (stageF s).mcycle = s.mcycle + 1 := rfl
@[simp] theorem stageF_params (s : State) : (stageF s).params = s.params := rfl
@[simp] theorem stageF_host (s : State) : (stageF s).host = s.host := rfl
@[simp] theorem stageF_inputs (s : State) : (stageF s).inputs = s.inputs := rfl
@[simp] theorem stageF_sound (s : State) : (stageF s).sound = s.sound := rfl
@[simp] theorem stageF_frames (s : State) : (stageF s).frames = if frameEnds s.params s.vic then s.frames ++ [s.mcycle] else s.frames := rfl
@[simp] theorem stageF_snapshot (s : State) : (stageF s).snapshot = s.snapshot := rfl
@[simp] theorem stageF_draws (s : State) : (stageF s).draws = s.draws := rfl

/-! ### `setNZ` -/

@[simp] theorem setNZ_a (r : Byte) (c : Cpu) : (setNZ r c).a = c.a := rfl
@[simp] theorem setNZ_x (r : Byte) (c : Cpu) : (setNZ r c).x = c.x := rfl
@[simp] theorem setNZ_y (r : Byte) (c : Cpu) : (setNZ r c).y = c.y := rfl
@[simp] theorem setNZ_sp (r : Byte) (c : Cpu) : (setNZ r c).sp = c.sp := rfl
@[simp] theorem setNZ_pc (r : Byte) (c : Cpu) : (setNZ r c).pc = c.pc := rfl
@[simp] theorem setNZ_c (r : Byte) (c : Cpu) : (setNZ r c).c = c.c := rfl
@[simp] theorem setNZ_z (r : Byte) (c : Cpu) : (setNZ r c).z = (r == 0) := rfl
@[simp] theorem setNZ_i (r : Byte) (c : Cpu) : (setNZ r c).i = c.i := rfl
@[simp] theorem setNZ_d (r : Byte) (c : Cpu) : (setNZ r c).d = c.d := rfl
@[simp] theorem setNZ_v (r : Byte) (c : Cpu) : (setNZ r c).v = c.v := rfl
@[simp] theorem setNZ_n (r : Byte) (c : Cpu) : (setNZ r c).n = r.getLsbD 7 := rfl
@[simp] theorem setNZ_seq (r : Byte) (c : Cpu) : (setNZ r c).seq = c.seq := rfl
@[simp] theorem setNZ_t (r : Byte) (c : Cpu) : (setNZ r c).t = c.t := rfl
@[simp] theorem setNZ_ea (r : Byte) (c : Cpu) : (setNZ r c).ea = c.ea := rfl
@[simp] theorem setNZ_base (r : Byte) (c : Cpu) : (setNZ r c).base = c.base := rfl
@[simp] theorem setNZ_ptr (r : Byte) (c : Cpu) : (setNZ r c).ptr = c.ptr := rfl
@[simp] theorem setNZ_data (r : Byte) (c : Cpu) : (setNZ r c).data = c.data := rfl
@[simp] theorem setNZ_crossed (r : Byte) (c : Cpu) : (setNZ r c).crossed = c.crossed := rfl
@[simp] theorem setNZ_taken (r : Byte) (c : Cpu) : (setNZ r c).taken = c.taken := rfl
@[simp] theorem setNZ_jammed (r : Byte) (c : Cpu) : (setNZ r c).jammed = c.jammed := rfl
@[simp] theorem setNZ_irqLatch (r : Byte) (c : Cpu) : (setNZ r c).irqLatch = c.irqLatch := rfl
@[simp] theorem setNZ_nmiPrev (r : Byte) (c : Cpu) : (setNZ r c).nmiPrev = c.nmiPrev := rfl
@[simp] theorem setNZ_nmiPending (r : Byte) (c : Cpu) : (setNZ r c).nmiPending = c.nmiPending := rfl
@[simp] theorem setNZ_pollIrq (r : Byte) (c : Cpu) : (setNZ r c).pollIrq = c.pollIrq := rfl
@[simp] theorem setNZ_pollNmi (r : Byte) (c : Cpu) : (setNZ r c).pollNmi = c.pollNmi := rfl
@[simp] theorem setNZ_resetPending (r : Byte) (c : Cpu) : (setNZ r c).resetPending = c.resetPending := rfl

/-! ### `loadA` -/

@[simp] theorem loadA_a (r : Byte) (c : Cpu) : (loadA r c).a = r := rfl
@[simp] theorem loadA_x (r : Byte) (c : Cpu) : (loadA r c).x = c.x := rfl
@[simp] theorem loadA_y (r : Byte) (c : Cpu) : (loadA r c).y = c.y := rfl
@[simp] theorem loadA_sp (r : Byte) (c : Cpu) : (loadA r c).sp = c.sp := rfl
@[simp] theorem loadA_pc (r : Byte) (c : Cpu) : (loadA r c).pc = c.pc := rfl
@[simp] theorem loadA_c (r : Byte) (c : Cpu) : (loadA r c).c = c.c := rfl
@[simp] theorem loadA_z (r : Byte) (c : Cpu) : (loadA r c).z = (r == 0) := rfl
@[simp] theorem loadA_i (r : Byte) (c : Cpu) : (loadA r c).i = c.i := rfl
@[simp] theorem loadA_d (r : Byte) (c : Cpu) : (loadA r c).d = c.d := rfl
@[simp] theorem loadA_v (r : Byte) (c : Cpu) : (loadA r c).v = c.v := rfl
@[simp] theorem loadA_n (r : Byte) (c : Cpu) : (loadA r c).n = r.getLsbD 7 := rfl
@[simp] theorem loadA_seq (r : Byte) (c : Cpu) : (loadA r c).seq = c.seq := rfl
@[simp] theorem loadA_t (r : Byte) (c : Cpu) : (loadA r c).t = c.t := rfl
@[simp] theorem loadA_ea (r : Byte) (c : Cpu) : (loadA r c).ea = c.ea := rfl
@[simp] theorem loadA_base (r : Byte) (c : Cpu) : (loadA r c).base = c.base := rfl
@[simp] theorem loadA_ptr (r : Byte) (c : Cpu) : (loadA r c).ptr = c.ptr := rfl
@[simp] theorem loadA_data (r : Byte) (c : Cpu) : (loadA r c).data = c.data := rfl
@[simp] theorem loadA_crossed (r : Byte) (c : Cpu) : (loadA r c).crossed = c.crossed := rfl
@[simp] theorem loadA_taken (r : Byte) (c : Cpu) : (loadA r c).taken = c.taken := rfl
@[simp] theorem loadA_jammed (r : Byte) (c : Cpu) : (loadA r c).jammed = c.jammed := rfl
@[simp] theorem loadA_irqLatch (r : Byte) (c : Cpu) : (loadA r c).irqLatch = c.irqLatch := rfl
@[simp] theorem loadA_nmiPrev (r : Byte) (c : Cpu) : (loadA r c).nmiPrev = c.nmiPrev := rfl
@[simp] theorem loadA_nmiPending (r : Byte) (c : Cpu) : (loadA r c).nmiPending = c.nmiPending := rfl
@[simp] theorem loadA_pollIrq (r : Byte) (c : Cpu) : (loadA r c).pollIrq = c.pollIrq := rfl
@[simp] theorem loadA_pollNmi (r : Byte) (c : Cpu) : (loadA r c).pollNmi = c.pollNmi := rfl
@[simp] theorem loadA_resetPending (r : Byte) (c : Cpu) : (loadA r c).resetPending = c.resetPending := rfl

/-! ### `loadX` -/

@[simp] theorem loadX_a (r : Byte) (c : Cpu) : (loadX r c).a = c.a := rfl
@[simp] theorem loadX_x (r : Byte) (c : Cpu) : (loadX r c).x = r := rfl
@[simp] theorem loadX_y (r : Byte) (c : Cpu) : (loadX r c).y = c.y := rfl
@[simp] theorem loadX_sp (r : Byte) (c : Cpu) : (loadX r c).sp = c.sp := rfl
@[simp] theorem loadX_pc (r : Byte) (c : Cpu) : (loadX r c).pc = c.pc := rfl
@[simp] theorem loadX_c (r : Byte) (c : Cpu) : (loadX r c).c = c.c := rfl
@[simp] theorem loadX_z (r : Byte) (c : Cpu) : (loadX r c).z = (r == 0) := rfl
@[simp] theorem loadX_i (r : Byte) (c : Cpu) : (loadX r c).i = c.i := rfl
@[simp] theorem loadX_d (r : Byte) (c : Cpu) : (loadX r c).d = c.d := rfl
@[simp] theorem loadX_v (r : Byte) (c : Cpu) : (loadX r c).v = c.v := rfl
@[simp] theorem loadX_n (r : Byte) (c : Cpu) : (loadX r c).n = r.getLsbD 7 := rfl
@[simp] theorem loadX_seq (r : Byte) (c : Cpu) : (loadX r c).seq = c.seq := rfl
@[simp] theorem loadX_t (r : Byte) (c : Cpu) : (loadX r c).t = c.t := rfl
@[simp] theorem loadX_ea (r : Byte) (c : Cpu) : (loadX r c).ea = c.ea := rfl
@[simp] theorem loadX_base (r : Byte) (c : Cpu) : (loadX r c).base = c.base := rfl
@[simp] theorem loadX_ptr (r : Byte) (c : Cpu) : (loadX r c).ptr = c.ptr := rfl
@[simp] theorem loadX_data (r : Byte) (c : Cpu) : (loadX r c).data = c.data := rfl
@[simp] theorem loadX_crossed (r : Byte) (c : Cpu) : (loadX r c).crossed = c.crossed := rfl
@[simp] theorem loadX_taken (r : Byte) (c : Cpu) : (loadX r c).taken = c.taken := rfl
@[simp] theorem loadX_jammed (r : Byte) (c : Cpu) : (loadX r c).jammed = c.jammed := rfl
@[simp] theorem loadX_irqLatch (r : Byte) (c : Cpu) : (loadX r c).irqLatch = c.irqLatch := rfl
@[simp] theorem loadX_nmiPrev (r : Byte) (c : Cpu) : (loadX r c).nmiPrev = c.nmiPrev := rfl
@[simp] theorem loadX_nmiPending (r : Byte) (c : Cpu) : (loadX r c).nmiPending = c.nmiPending := rfl
@[simp] theorem loadX_pollIrq (r : Byte) (c : Cpu) : (loadX r c).pollIrq = c.pollIrq := rfl
@[simp] theorem loadX_pollNmi (r : Byte) (c : Cpu) : (loadX r c).pollNmi = c.pollNmi := rfl
@[simp] theorem loadX_resetPending (r : Byte) (c : Cpu) : (loadX r c).resetPending = c.resetPending := rfl

/-! ### `loadY` -/

@[simp] theorem loadY_a (r : Byte) (c : Cpu) : (loadY r c).a = c.a := rfl
@[simp] theorem loadY_x (r : Byte) (c : Cpu) : (loadY r c).x = c.x := rfl
@[simp] theorem loadY_y (r : Byte) (c : Cpu) : (loadY r c).y = r := rfl
@[simp] theorem loadY_sp (r : Byte) (c : Cpu) : (loadY r c).sp = c.sp := rfl
@[simp] theorem loadY_pc (r : Byte) (c : Cpu) : (loadY r c).pc = c.pc := rfl
@[simp] theorem loadY_c (r : Byte) (c : Cpu) : (loadY r c).c = c.c := rfl
@[simp] theorem loadY_z (r : Byte) (c : Cpu) : (loadY r c).z = (r == 0) := rfl
@[simp] theorem loadY_i (r : Byte) (c : Cpu) : (loadY r c).i = c.i := rfl
@[simp] theorem loadY_d (r : Byte) (c : Cpu) : (loadY r c).d = c.d := rfl
@[simp] theorem loadY_v (r : Byte) (c : Cpu) : (loadY r c).v = c.v := rfl
@[simp] theorem loadY_n (r : Byte) (c : Cpu) : (loadY r c).n = r.getLsbD 7 := rfl
@[simp] theorem loadY_seq (r : Byte) (c : Cpu) : (loadY r c).seq = c.seq := rfl
@[simp] theorem loadY_t (r : Byte) (c : Cpu) : (loadY r c).t = c.t := rfl
@[simp] theorem loadY_ea (r : Byte) (c : Cpu) : (loadY r c).ea = c.ea := rfl
@[simp] theorem loadY_base (r : Byte) (c : Cpu) : (loadY r c).base = c.base := rfl
@[simp] theorem loadY_ptr (r : Byte) (c : Cpu) : (loadY r c).ptr = c.ptr := rfl
@[simp] theorem loadY_data (r : Byte) (c : Cpu) : (loadY r c).data = c.data := rfl
@[simp] theorem loadY_crossed (r : Byte) (c : Cpu) : (loadY r c).crossed = c.crossed := rfl
@[simp] theorem loadY_taken (r : Byte) (c : Cpu) : (loadY r c).taken = c.taken := rfl
@[simp] theorem loadY_jammed (r : Byte) (c : Cpu) : (loadY r c).jammed = c.jammed := rfl
@[simp] theorem loadY_irqLatch (r : Byte) (c : Cpu) : (loadY r c).irqLatch = c.irqLatch := rfl
@[simp] theorem loadY_nmiPrev (r : Byte) (c : Cpu) : (loadY r c).nmiPrev = c.nmiPrev := rfl
@[simp] theorem loadY_nmiPending (r : Byte) (c : Cpu) : (loadY r c).nmiPending = c.nmiPending := rfl
@[simp] theorem loadY_pollIrq (r : Byte) (c : Cpu) : (loadY r c).pollIrq = c.pollIrq := rfl
@[simp] theorem loadY_pollNmi (r : Byte) (c : Cpu) : (loadY r c).pollNmi = c.pollNmi := rfl
@[simp] theorem loadY_resetPending (r : Byte) (c : Cpu) : (loadY r c).resetPending = c.resetPending := rfl

/-! ### `decSp` -/

@[simp] theorem decSp_a (c : Cpu) : (decSp c).a = c.a := rfl
@[simp] theorem decSp_x (c : Cpu) : (decSp c).x = c.x := rfl
@[simp] theorem decSp_y (c : Cpu) : (decSp c).y = c.y := rfl
@[simp] theorem decSp_sp (c : Cpu) : (decSp c).sp = c.sp - 1 := rfl
@[simp] theorem decSp_pc (c : Cpu) : (decSp c).pc = c.pc := rfl
@[simp] theorem decSp_c (c : Cpu) : (decSp c).c = c.c := rfl
@[simp] theorem decSp_z (c : Cpu) : (decSp c).z = c.z := rfl
@[simp] theorem decSp_i (c : Cpu) : (decSp c).i = c.i := rfl
@[simp] theorem decSp_d (c : Cpu) : (decSp c).d = c.d := rfl
@[simp] theorem decSp_v (c : Cpu) : (decSp c).v = c.v := rfl
@[simp] theorem decSp_n (c : Cpu) : (decSp c).n = c.n := rfl
@[simp] theorem decSp_seq (c : Cpu) : (decSp c).seq = c.seq := rfl
@[simp] theorem decSp_t (c : Cpu) : (decSp c).t = c.t := rfl
@[simp] theorem decSp_ea (c : Cpu) : (decSp c).ea = c.ea := rfl
@[simp] theorem decSp_base (c : Cpu) : (decSp c).base = c.base := rfl
@[simp] theorem decSp_ptr (c : Cpu) : (decSp c).ptr = c.ptr := rfl
@[simp] theorem decSp_data (c : Cpu) : (decSp c).data = c.data := rfl
@[simp] theorem decSp_crossed (c : Cpu) : (decSp c).crossed = c.crossed := rfl
@[simp] theorem decSp_taken (c : Cpu) : (decSp c).taken = c.taken := rfl
@[simp] theorem decSp_jammed (c : Cpu) : (decSp c).jammed = c.jammed := rfl
@[simp] theorem decSp_irqLatch (c : Cpu) : (decSp c).irqLatch = c.irqLatch := rfl
@[simp] theorem decSp_nmiPrev (c : Cpu) : (decSp c).nmiPrev = c.nmiPrev := rfl
@[simp] theorem decSp_nmiPending (c : Cpu) : (decSp c).nmiPending = c.nmiPending := rfl
@[simp] theorem decSp_pollIrq (c : Cpu) : (decSp c).pollIrq = c.pollIrq := rfl
@[simp] theorem decSp_pollNmi (c : Cpu) : (decSp c).pollNmi = c.pollNmi := rfl
@[simp] theorem decSp_resetPending (c : Cpu) : (decSp c).resetPending = c.resetPending := rfl

/-! ### `incSp` -/

@[simp] theorem incSp_a (c : Cpu) : (incSp c).a = c.a := rfl
@[simp] theorem incSp_x (c : Cpu) : (incSp c).x = c.x := rfl
@[simp] theorem incSp_y (c : Cpu) : (incSp c).y = c.y := rfl
@[simp] theorem incSp_sp (c : Cpu) : (incSp c).sp = c.sp + 1 := rfl
@[simp] theorem incSp_pc (c : Cpu) : (incSp c).pc = c.pc := rfl
@[simp] theorem incSp_c (c : Cpu) : (incSp c).c = c.c := rfl
@[simp] theorem incSp_z (c : Cpu) : (incSp c).z = c.z := rfl
@[simp] theorem incSp_i (c : Cpu) : (incSp c).i = c.i := rfl
@[simp] theorem incSp_d (c : Cpu) : (incSp c).d = c.d := rfl
@[simp] theorem incSp_v (c : Cpu) : (incSp c).v = c.v := rfl
@[simp] theorem incSp_n (c : Cpu) : (incSp c).n = c.n := rfl
@[simp] theorem incSp_seq (c : Cpu) : (incSp c).seq = c.seq := rfl
@[simp] theorem incSp_t (c : Cpu) : (incSp c).t = c.t := rfl
@[simp] theorem incSp_ea (c : Cpu) : (incSp c).ea = c.ea := rfl
@[simp] theorem incSp_base (c : Cpu) : (incSp c).base = c.base := rfl
@[simp] theorem incSp_ptr (c : Cpu) : (incSp c).ptr = c.ptr := rfl
@[simp] theorem incSp_data (c : Cpu) : (incSp c).data = c.data := rfl
@[simp] theorem incSp_crossed (c : Cpu) : (incSp c).crossed = c.crossed := rfl
@[simp] theorem incSp_taken (c : Cpu) : (incSp c).taken = c.taken := rfl
@[simp] theorem incSp_jammed (c : Cpu) : (incSp c).jammed = c.jammed := rfl
@[simp] theorem incSp_irqLatch (c : Cpu) : (incSp c).irqLatch = c.irqLatch := rfl
@[simp] theorem incSp_nmiPrev (c : Cpu) : (incSp c).nmiPrev = c.nmiPrev := rfl
@[simp] theorem incSp_nmiPending (c : Cpu) : (incSp c).nmiPending = c.nmiPending := rfl
@[simp] theorem incSp_pollIrq (c : Cpu) : (incSp c).pollIrq = c.pollIrq := rfl
@[simp] theorem incSp_pollNmi (c : Cpu) : (incSp c).pollNmi = c.pollNmi := rfl
@[simp] theorem incSp_resetPending (c : Cpu) : (incSp c).resetPending = c.resetPending := rfl

/-! ### `unpackP` -/

@[simp] theorem unpackP_a (p : Byte) (c : Cpu) : (unpackP p c).a = c.a := rfl
@[simp] theorem unpackP_x (p : Byte) (c : Cpu) : (unpackP p c).x = c.x := rfl
@[simp] theorem unpackP_y (p : Byte) (c : Cpu) : (unpackP p c).y = c.y := rfl
@[simp] theorem unpackP_sp (p : Byte) (c : Cpu) : (unpackP p c).sp = c.sp := rfl
@[simp] theorem unpackP_pc (p : Byte) (c : Cpu) : (unpackP p c).pc = c.pc := rfl
@[simp] theorem unpackP_c (p : Byte) (c : Cpu) : (unpackP p c).c = p.getLsbD 0 := rfl
@[simp] theorem unpackP_z (p : Byte) (c : Cpu) : (unpackP p c).z = p.getLsbD 1 := rfl
@[simp] theorem unpackP_i (p : Byte) (c : Cpu) : (unpackP p c).i = p.getLsbD 2 := rfl
@[simp] theorem unpackP_d (p : Byte) (c : Cpu) : (unpackP p c).d = p.getLsbD 3 := rfl
@[simp] theorem unpackP_v (p : Byte) (c : Cpu) : (unpackP p c).v = p.getLsbD 6 := rfl
@[simp] theorem unpackP_n (p : Byte) (c : Cpu) : (unpackP p c).n = p.getLsbD 7 := rfl
@[simp] theorem unpackP_seq (p : Byte) (c : Cpu) : (unpackP p c).seq = c.seq := rfl
@[simp] theorem unpackP_t (p : Byte) (c : Cpu) : (unpackP p c).t = c.t := rfl
@[simp] theorem unpackP_ea (p : Byte) (c : Cpu) : (unpackP p c).ea = c.ea := rfl
@[simp] theorem unpackP_base (p : Byte) (c : Cpu) : (unpackP p c).base = c.base := rfl
@[simp] theorem unpackP_ptr (p : Byte) (c : Cpu) : (unpackP p c).ptr = c.ptr := rfl
@[simp] theorem unpackP_data (p : Byte) (c : Cpu) : (unpackP p c).data = c.data := rfl
@[simp] theorem unpackP_crossed (p : Byte) (c : Cpu) : (unpackP p c).crossed = c.crossed := rfl
@[simp] theorem unpackP_taken (p : Byte) (c : Cpu) : (unpackP p c).taken = c.taken := rfl
@[simp] theorem unpackP_jammed (p : Byte) (c : Cpu) : (unpackP p c).jammed = c.jammed := rfl
@[simp] theorem unpackP_irqLatch (p : Byte) (c : Cpu) : (unpackP p c).irqLatch = c.irqLatch := rfl
@[simp] theorem unpackP_nmiPrev (p : Byte) (c : Cpu) : (unpackP p c).nmiPrev = c.nmiPrev := rfl
@[simp] theorem unpackP_nmiPending (p : Byte) (c : Cpu) : (unpackP p c).nmiPending = c.nmiPending := rfl
@[simp] theorem unpackP_pollIrq (p : Byte) (c : Cpu) : (unpackP p c).pollIrq = c.pollIrq := rfl
@[simp] theorem unpackP_pollNmi (p : Byte) (c : Cpu) : (unpackP p c).pollNmi = c.pollNmi := rfl
@[simp] theorem unpackP_resetPending (p : Byte) (c : Cpu) : (unpackP p c).resetPending = c.resetPending := rfl

/-- `mapCpu` twice is `mapCpu` once. -/
@[simp] theorem mapCpu_mapCpu (f g : Cpu → Cpu) (s : State) : mapCpu f (mapCpu g s) = mapCpu (fun c => f (g c)) s := rfl

end Sys2Proof.Machine
end

