-- ==== Sys2Proof/Laws/Bus.lean ====
section
/-! SUPPORT. What a bus access can do, said once (Bus.lean): the decode answers with a cell the region has, a
read changes only what R131 names, a write only what R132 names, and without a cartridge both always answer. -/

namespace Sys2Proof.Machine

/-- What a composed answer comes from. -/
theorem andThen_eq_next {α β : Type} {o : Answer α} {f : α → Answer β} {r : β} :
    andThen o f = .next r ↔ ∃ a, o = .next a ∧ f a = .next r := by
  cases o <;> simp [andThen]

@[simp] theorem andThen_next {α β : Type} (a : α) (f : α → Answer β) : andThen (.next a) f = f a := rfl

@[simp] theorem andThen_fault {α β : Type} (r : Fault) (f : α → Answer β) : andThen (.fault r) f = .fault r := rfl

@[simp] theorem andThen_refused {α β : Type} (r : Refusal) (f : α → Answer β) :
    andThen (.refused r) f = .refused r := rfl

/-! ## The decode -/

/-- The I/O window answers with a cell of the region it names. -/
theorem ioTarget_offset {a : Nat} (h : 0xD000 ≤ a) (h' : a < 0xE000) :
    (ioTarget a).offset < regionSize (ioTarget a).region := by
  unfold ioTarget
  split_ifs <;> simp only [regionSize] <;> omega

/-- Without a cartridge a read answers with a cell of the region it names. -/
theorem readTarget_offset (b : BankConfig) {a : Nat} (h : a < 65536) :
    (readTarget b a).offset < regionSize (readTarget b a).region := by
  unfold readTarget
  split_ifs
  all_goals first
    | (simp only [regionSize]; omega)
    | exact ioTarget_offset (by omega) (by omega)

/-- No write is answered by a ROM (R83). -/
theorem writeTarget_region (b : BankConfig) (a : Nat) :
    (writeTarget b a).region ≠ .romBasic ∧ (writeTarget b a).region ≠ .romKernal
      ∧ (writeTarget b a).region ≠ .romChar := by
  unfold writeTarget
  cases h : (readTarget b a).region <;> simp [h]

/-- Without a cartridge a write answers with a cell of the region it names. -/
theorem writeTarget_offset (b : BankConfig) {a : Nat} (h : a < 65536) :
    (writeTarget b a).offset < regionSize (writeTarget b a).region := by
  unfold writeTarget
  have := readTarget_offset b h
  cases hr : (readTarget b a).region <;> simp_all [regionSize]

/-- A cartridge's row answers with a cell of the region it names. -/
theorem cartCell_lt (r : CartRow) {a : Nat} (h : a < 65536) : cartCell r a < regionSize r.region := by
  unfold cartCell
  split
  case isTrue hr => simp [hr, regionSize, h]
  case isFalse => exact Nat.mod_lt _ (by cases r.region <;> simp [regionSize])

/-- A cartridge's map answers with a cell of the region it names. -/
theorem cartTarget_offset {b : BankConfig} {d : Dir} {a : Nat} (h : a < 65536) {rows : List CartRow} {t : Target}
    (ht : cartTarget b d a rows = .next t) : t.offset < regionSize t.region := by
  induction rows with
  | nil => simp [cartTarget] at ht
  | cons r rest ih =>
    simp only [cartTarget] at ht
    split at ht
    · simp only [Host.Outcome.next.injEq] at ht
      subst ht
      exact cartCell_lt r h
    · exact ih ht

/-- The decode answers with a cell the region has, cartridge or not. -/
theorem regionOf_offset {s : State} {d : Dir} {a : Word} {t : Target} (h : regionOf s d a.toNat = .next t) :
    t.offset < regionSize t.region := by
  have ha := a.isLt
  unfold regionOf at h
  dsimp only at h
  split_ifs at h with h2
  · simp only [Host.Outcome.next.injEq] at h
    subst h; exact h2
  · cases d <;> simp only [Host.Outcome.next.injEq] at h <;> subst h
    · exact readTarget_offset _ ha
    · exact writeTarget_offset _ ha
  · cases hm : s.host.cartMap with
    | none => simp [hm] at h
    | some rows => rw [hm] at h; exact cartTarget_offset ha h

/-- Without a cartridge the decode is total (R81). -/
theorem regionOf_answers {s : State} (h : s.host.exrom = true ∧ s.host.game = true) (d : Dir) (a : Nat) :
    ∃ t, regionOf s d a = .next t := by
  unfold regionOf
  dsimp only [bankConfig]
  split_ifs
  · exact ⟨_, rfl⟩
  · cases d <;> exact ⟨_, rfl⟩
  · simp_all

/-! ## One access -/

/-- A read's answer: the value and the side effect of the cell that answers. -/
theorem busRead_eq_next {a : Word} {s t : State} {v : Byte} :
    busRead a s = .next (v, t) ↔
      ∃ c, regionOf s .read a.toNat = .next c ∧ targetValue s c = v ∧ targetAfterRead s c = t := by
  simp [busRead, andThen_eq_next]

/-- A write's answer. -/
theorem busWrite_eq_next {a : Word} {v : Byte} {s t : State} :
    busWrite a v s = .next t ↔ ∃ c, regionOf s .write a.toNat = .next c ∧ targetWrite s a c v = t := by
  simp [busWrite, andThen_eq_next]

/-- Without a cartridge every read answers (R417: no access ever traps). -/
theorem busRead_answers {s : State} (h : s.host.exrom = true ∧ s.host.game = true) (a : Word) :
    ∃ v t, busRead a s = .next (v, t) := by
  obtain ⟨c, hc⟩ := regionOf_answers h .read a.toNat
  exact ⟨_, _, busRead_eq_next.2 ⟨c, hc, rfl, rfl⟩⟩

/-- Without a cartridge every write answers. -/
theorem busWrite_answers {s : State} (h : s.host.exrom = true ∧ s.host.game = true) (a : Word) (v : Byte) :
    ∃ t, busWrite a v s = .next t := by
  obtain ⟨c, hc⟩ := regionOf_answers h .write a.toNat
  exact ⟨_, busWrite_eq_next.2 ⟨c, hc, rfl⟩⟩

/-- A read's side effects (R131), whatever cell answers: draws, the collision registers, the interrupt flags. -/
theorem targetAfterRead_eq (s : State) (c : Target) :
    targetAfterRead s c =
      { s with
        draws := (targetAfterRead s c).draws
        vic := { s.vic with
          collMM := (targetAfterRead s c).vic.collMM, collMD := (targetAfterRead s c).vic.collMD }
        cia1 := { s.cia1 with icrData := (targetAfterRead s c).cia1.icrData }
        cia2 := { s.cia2 with icrData := (targetAfterRead s c).cia2.icrData } } := by
  obtain ⟨r, k⟩ := c
  cases r <;> simp only [targetAfterRead, drawn, vicAfterRead, ciaAfterRead] <;> split_ifs <;> rfl

/-- What a read leaves alone, as equations. -/
theorem busRead_frame {a : Word} {s t : State} {v : Byte} (h : busRead a s = .next (v, t)) :
    t.cpu = s.cpu ∧ t.ddr = s.ddr ∧ t.port = s.port ∧ t.ram = s.ram ∧ t.color = s.color
      ∧ t.romBasic = s.romBasic ∧ t.romKernal = s.romKernal ∧ t.romChar = s.romChar ∧ t.mcycle = s.mcycle
      ∧ t.params = s.params ∧ t.host = s.host ∧ t.inputs = s.inputs ∧ t.sound = s.sound
      ∧ t.frames = s.frames ∧ t.snapshot = s.snapshot := by
  obtain ⟨c, -, -, rfl⟩ := busRead_eq_next.1 h
  rw [targetAfterRead_eq]
  simp

/-- What a read may change in the devices (R131). -/
theorem busRead_devices {a : Word} {s t : State} {v : Byte} (h : busRead a s = .next (v, t)) :
    t.vic = { s.vic with collMM := t.vic.collMM, collMD := t.vic.collMD }
      ∧ t.cia1 = { s.cia1 with icrData := t.cia1.icrData }
      ∧ t.cia2 = { s.cia2 with icrData := t.cia2.icrData } := by
  obtain ⟨c, -, -, rfl⟩ := busRead_eq_next.1 h
  refine ⟨?_, ?_, ?_⟩ <;> conv_lhs => rw [targetAfterRead_eq]

/-- What no write changes. -/
theorem busWrite_frame {a : Word} {v : Byte} {s t : State} (h : busWrite a v s = .next t) :
    t.cpu = s.cpu ∧ t.romBasic = s.romBasic ∧ t.romKernal = s.romKernal ∧ t.romChar = s.romChar
      ∧ t.mcycle = s.mcycle ∧ t.params = s.params ∧ t.host = s.host ∧ t.inputs = s.inputs
      ∧ t.frames = s.frames ∧ t.snapshot = s.snapshot ∧ t.draws = s.draws := by
  obtain ⟨⟨r, k⟩, -, rfl⟩ := busWrite_eq_next.1 h
  cases r <;> simp only [targetWrite] <;> (try split) <;> simp

/-- A write leaves RAM as it is, or stores at its own address. -/
theorem busWrite_ram {a : Word} {v : Byte} {s t : State} (h : busWrite a v s = .next t) :
    t.ram = s.ram ∨ t.ram = Cells.write s.ram a.toNat v := by
  obtain ⟨⟨r, k⟩, -, rfl⟩ := busWrite_eq_next.1 h
  cases r <;> simp only [targetWrite] <;> (try split) <;> simp

/-- A VIC register write keeps the cells' canonical form. -/
theorem vicWrite_cells {v : Vic} (h : Cells.wf 0x2F v.cells = true) (off : Nat) (x : Byte) :
    Cells.wf 0x2F (vicWrite v off x).cells = true := by
  unfold vicWrite
  split_ifs with h1 <;> simp only [h]
  · exact Cells.wf_write h x (by decide)
  · exact Cells.wf_write h x ‹_›

/-- A write keeps the canonical form of every storage. -/
theorem busWrite_storage {a : Word} {v : Byte} {s t : State} (h : busWrite a v s = .next t)
    (hr : Memory.wf s.ram) (hc : Cells.wf 1024 s.color = true) (hv : Cells.wf 0x2F s.vic.cells = true) :
    Memory.wf t.ram ∧ Cells.wf 1024 t.color = true ∧ Cells.wf 0x2F t.vic.cells = true := by
  obtain ⟨c, hreg, rfl⟩ := busWrite_eq_next.1 h
  have hoff := regionOf_offset hreg
  obtain ⟨r, k⟩ := c
  have hw := Memory.wf_write hr a v
  cases r
  case color => exact ⟨hr, Cells.wf_write hc _ hoff, hv⟩
  case vic => exact ⟨hr, hc, vicWrite_cells hv k v⟩
  case port => simp only [targetWrite]; split <;> exact ⟨hw, hc, hv⟩
  all_goals first | exact ⟨hw, hc, hv⟩ | exact ⟨hr, hc, hv⟩

end Sys2Proof.Machine
end

