-- ==== Sys2Proof/Laws/Ops.lean ====
section
/-! SUPPORT. What each shared operation of a CPU cycle can do (Ops.lean, Operands.lean), said once: when it
answers, what the bus answered and what the CPU became. And what every instruction has in common: a CPU cycle
touches the rest of the machine by one bus access or one draw, or not at all. -/

namespace Sys2Proof.Machine

/-! ## Cycles with one access -/

theorem readCycle_eq_next {a : Word} {k : Byte → State → State} {s t : State} :
    readCycle a k s = .next t ↔ ∃ v s1, busRead a s = .next (v, s1) ∧ k v s1 = t := by
  simp [readCycle, andThen_eq_next]

theorem writeCycle_eq_next {a : Word} {v : Byte} {k : State → State} {s t : State} :
    writeCycle a v k s = .next t ↔ ∃ s1, busWrite a v s = .next s1 ∧ k s1 = t := by
  simp [writeCycle, andThen_eq_next]

theorem dummyRead_eq_next {a : Word} {s t : State} :
    dummyRead a s = .next t ↔ ∃ v s1, busRead a s = .next (v, s1) ∧ nextCycle s1 = t := readCycle_eq_next

theorem lastRead_eq_next {a : Word} {op : Byte → Cpu → Cpu} {s t : State} :
    lastRead a op s = .next t ↔
      ∃ v s1, busRead a (poll s) = .next (v, s1) ∧ endInstr (mapCpu (op v) s1) = t := readCycle_eq_next

theorem lastWrite_eq_next {a : Word} {v : Byte} {op : Cpu → Cpu} {s t : State} :
    lastWrite a v op s = .next t ↔
      ∃ s1, busWrite a v (poll s) = .next s1 ∧ endInstr (mapCpu op s1) = t := writeCycle_eq_next

theorem pushCycle_eq_next {v : Byte} {k : State → State} {s t : State} :
    pushCycle v k s = .next t ↔
      ∃ s1, busWrite (stackAddr s.cpu.sp) v s = .next s1 ∧ k (mapCpu decSp s1) = t := writeCycle_eq_next

theorem stackBump_eq_next {s t : State} :
    stackBump s = .next t ↔
      ∃ v s1, busRead (stackAddr s.cpu.sp) s = .next (v, s1) ∧ nextCycle (mapCpu incSp s1) = t :=
  readCycle_eq_next

/-! ## One access per cycle (R170) -/

/-- The bus access of a cycle that starts in `s`: none, a draw, a read or a write. -/
inductive Access (s : State) : State → Prop where
  | none : Access s s
  | draw : Access s (drawn s)
  | read {a : Word} {v : Byte} {t : State} (h : busRead a s = .next (v, t)) : Access s t
  | write {a : Word} {v : Byte} {t : State} (h : busWrite a v s = .next t) : Access s t

/-- From `s` to `t` there is one access, and before and after it a change of the CPU alone. -/
def OneAccess (s t : State) : Prop := ∃ f g s1, Access (mapCpu f s) s1 ∧ mapCpu g s1 = t

theorem Access.oneAccess {s s1 : State} (h : Access s s1) (g : Cpu → Cpu) : OneAccess s (mapCpu g s1) :=
  ⟨id, g, s1, h, rfl⟩

theorem Access.oneAccess_poll {s s1 : State} (h : Access (poll s) s1) (g : Cpu → Cpu) :
    OneAccess s (mapCpu g s1) := ⟨_, g, s1, h, rfl⟩

theorem readCycle_oneAccess {a : Word} {k : Byte → State → State} (hk : ∀ v s, ∃ g, k v s = mapCpu g s)
    {s t : State} (h : readCycle a k s = .next t) : OneAccess s t := by
  obtain ⟨v, s1, h1, rfl⟩ := readCycle_eq_next.1 h
  obtain ⟨g, hg⟩ := hk v s1
  exact hg ▸ (Access.read h1).oneAccess g

theorem writeCycle_oneAccess {a : Word} {v : Byte} {k : State → State} (hk : ∀ s, ∃ g, k s = mapCpu g s)
    {s t : State} (h : writeCycle a v k s = .next t) : OneAccess s t := by
  obtain ⟨s1, h1, rfl⟩ := writeCycle_eq_next.1 h
  obtain ⟨g, hg⟩ := hk s1
  exact hg ▸ (Access.write h1).oneAccess g

theorem dummyRead_oneAccess {a : Word} {s t : State} (h : dummyRead a s = .next t) : OneAccess s t :=
  readCycle_oneAccess (fun _ _ => ⟨_, rfl⟩) h

theorem lastRead_oneAccess {a : Word} {op : Byte → Cpu → Cpu} {s t : State} (h : lastRead a op s = .next t) :
    OneAccess s t := by
  obtain ⟨v, s1, h1, rfl⟩ := lastRead_eq_next.1 h
  exact (Access.read h1).oneAccess_poll (fun c => { op v c with seq := .boundary, t := 1 })

theorem lastWrite_oneAccess {a : Word} {v : Byte} {op : Cpu → Cpu} {s t : State}
    (h : lastWrite a v op s = .next t) : OneAccess s t := by
  obtain ⟨s1, h1, rfl⟩ := lastWrite_eq_next.1 h
  exact (Access.write h1).oneAccess_poll (fun c => { op c with seq := .boundary, t := 1 })

theorem pushCycle_oneAccess {v : Byte} {k : State → State} (hk : ∀ s, ∃ g, k s = mapCpu g s) {s t : State}
    (h : pushCycle v k s = .next t) : OneAccess s t := by
  refine writeCycle_oneAccess (fun s => ?_) h
  obtain ⟨g, hg⟩ := hk (mapCpu decSp s)
  exact ⟨fun c => g (decSp c), hg⟩

theorem pushCycle_poll_oneAccess {v : Byte} {s t : State} (h : pushCycle v endInstr (poll s) = .next t) :
    OneAccess s t := by
  obtain ⟨s1, h1, rfl⟩ := pushCycle_eq_next.1 h
  exact (Access.write h1).oneAccess_poll (fun c => { decSp c with seq := .boundary, t := 1 })

theorem stackBump_oneAccess {s t : State} (h : stackBump s = .next t) : OneAccess s t :=
  readCycle_oneAccess (fun _ _ => ⟨fun c => { incSp c with t := c.t + 1 }, rfl⟩) h

theorem onlyCpu_oneAccess {s t : State} (g : Cpu → Cpu) (h : (.next (mapCpu g s) : Answer State) = .next t) :
    OneAccess s t := by
  simp only [Host.Outcome.next.injEq] at h
  exact h ▸ Access.none.oneAccess g

theorem onlyCpu_oneAccess_draw {s t : State} (g : Cpu → Cpu)
    (h : (.next (mapCpu g (drawn s)) : Answer State) = .next t) : OneAccess s t := by
  simp only [Host.Outcome.next.injEq] at h
  exact h ▸ Access.draw.oneAccess g

/-- The interrupt entry (R180, R409). -/
theorem entryCycle_oneAccess {b : Bool} {vec : State → Word} {s t : State} (h : entryCycle b vec s = .next t) :
    OneAccess s t := by
  unfold entryCycle at h
  split at h
  · exact pushCycle_oneAccess (fun _ => ⟨_, rfl⟩) h
  · exact pushCycle_oneAccess (fun _ => ⟨_, rfl⟩) h
  · exact pushCycle_oneAccess (fun _ => ⟨fun c => { c with ea := vec s, t := c.t + 1 }, rfl⟩) h
  · exact readCycle_oneAccess (fun v _ => ⟨fun c => { vectorLow s.params.vecNmi v c with t := c.t + 1 }, rfl⟩) h
  · exact readCycle_oneAccess
      (fun v _ => ⟨fun c => { c with pc := cat v c.data, seq := .handler, t := 1 }, rfl⟩) h

/-- The IRQ and NMI sequences (R409). -/
theorem interruptCycle_oneAccess {vec : State → Word} {s t : State} (h : interruptCycle vec s = .next t) :
    OneAccess s t := by
  unfold interruptCycle at h
  split at h
  · exact dummyRead_oneAccess h
  · exact entryCycle_oneAccess h

/-- The reset sequence (R414). -/
theorem resetCycle_oneAccess {s t : State} (h : resetCycle s = .next t) : OneAccess s t := by
  unfold resetCycle at h
  split at h
  · exact dummyRead_oneAccess h
  · exact dummyRead_oneAccess h
  · exact readCycle_oneAccess (fun _ _ => ⟨fun c => { decSp c with t := c.t + 1 }, rfl⟩) h
  · exact readCycle_oneAccess (fun _ _ => ⟨fun c => { decSp c with t := c.t + 1 }, rfl⟩) h
  · exact readCycle_oneAccess (fun _ _ => ⟨fun c => { decSp c with t := c.t + 1 }, rfl⟩) h
  · exact readCycle_oneAccess (fun v _ => ⟨fun c => { c with data := v, i := true, t := c.t + 1 }, rfl⟩) h
  · exact readCycle_oneAccess
      (fun v _ => ⟨fun c => { c with pc := cat v c.data, seq := .handler, t := 1 }, rfl⟩) h

/-- The return from interrupt (R179). -/
theorem returnCycle_oneAccess {s t : State} (h : returnCycle s = .next t) : OneAccess s t := by
  unfold returnCycle at h
  split at h
  · exact dummyRead_oneAccess h
  · exact stackBump_oneAccess h
  · exact readCycle_oneAccess (fun v _ => ⟨fun c => { incSp (unpackP v c) with t := c.t + 1 }, rfl⟩) h
  · exact readCycle_oneAccess (fun v _ => ⟨fun c => { incSp { c with data := v } with t := c.t + 1 }, rfl⟩) h
  · exact lastRead_oneAccess h

/-! ## Operand forms -/

theorem fixupCycle_oneAccess {m : Mem} {s t : State} (h : fixupCycle m s = .next t) : OneAccess s t :=
  readCycle_oneAccess
    (fun _ _ => ⟨fun c => { c with ea := effAddr m c, crossed := crosses m c, t := c.t + 1 }, rfl⟩) h

/-- A lead cycle (R173). -/
theorem leadCycle_oneAccess {m : Mem} {s t : State} (h : leadCycle m s = .next t) : OneAccess s t := by
  unfold leadCycle at h
  split at h
  · exact onlyCpu_oneAccess (fun c => { c with t := c.t + 1 }) h
  · exact onlyCpu_oneAccess (fun c => { c with t := c.t + 1 }) h
  · exact dummyRead_oneAccess h
  · exact dummyRead_oneAccess h
  · exact fixupCycle_oneAccess h
  · exact fixupCycle_oneAccess h
  · split at h
    · exact dummyRead_oneAccess h
    · exact readCycle_oneAccess (fun v _ => ⟨fun c => { c with ea := zext16 v, t := c.t + 1 }, rfl⟩) h
    · exact readCycle_oneAccess (fun v _ => ⟨fun c => { c with ea := cat v (lo c.ea), t := c.t + 1 }, rfl⟩) h
  · split at h
    · exact readCycle_oneAccess (fun v _ => ⟨fun c => { c with base := zext16 v, t := c.t + 1 }, rfl⟩) h
    · exact readCycle_oneAccess
        (fun v _ => ⟨fun c => { c with base := cat v (lo c.base), t := c.t + 1 }, rfl⟩) h
    · exact fixupCycle_oneAccess h

/-- A cycle of a read (R173). -/
theorem readMem_oneAccess {m : Mem} {op : Byte → Cpu → Cpu} {s t : State} (h : readMem m op s = .next t) :
    OneAccess s t := by
  unfold readMem at h
  split at h
  · exact lastRead_oneAccess h
  · exact leadCycle_oneAccess h

/-- A cycle of a write (R175). -/
theorem writeMem_oneAccess {m : Mem} {value : Cpu → Byte} {s t : State} (h : writeMem m value s = .next t) :
    OneAccess s t := by
  unfold writeMem at h
  split at h
  · exact lastWrite_oneAccess h
  · exact leadCycle_oneAccess h

/-- A cycle of a read-modify-write (R174). -/
theorem rmwMem_oneAccess {m : Mem} {operate : Byte → Cpu → Byte × Cpu} {final : Byte → Cpu → Cpu} {s t : State}
    (h : rmwMem m operate final s = .next t) : OneAccess s t := by
  unfold rmwMem at h
  split_ifs at h
  · exact leadCycle_oneAccess h
  · exact readCycle_oneAccess (fun v _ => ⟨fun c => { c with data := v, t := c.t + 1 }, rfl⟩) h
  · exact writeCycle_oneAccess
      (fun _ => ⟨fun c => { (operate c.data c).2 with
        data := (operate c.data c).1, t := (operate c.data c).2.t + 1 }, rfl⟩) h
  · exact lastWrite_oneAccess h

/-- A cycle of an unstable store (R175, R343). -/
theorem unstableStore_oneAccess {m : Mem} {reg : Cpu → Byte} {after : Cpu → Cpu} {s t : State}
    (h : unstableStore m reg after s = .next t) : OneAccess s t := by
  unfold unstableStore at h
  split at h
  · exact lastWrite_oneAccess h
  · exact leadCycle_oneAccess h

/-- The operate cycle of an immediate. -/
theorem immediate_oneAccess {op : Byte → Cpu → Cpu} {v : Byte} {s t : State} (h : immediate op v s = .next t) :
    OneAccess s t := onlyCpu_oneAccess (fun c => { op v c with seq := .boundary, t := 1 }) h

/-- A cycle of an instruction with a source. -/
theorem readSrc_oneAccess {o : Src} {op : Byte → Cpu → Cpu} {s t : State} (h : readSrc o op s = .next t) :
    OneAccess s t := by
  cases o
  · exact immediate_oneAccess h
  · exact readMem_oneAccess h

theorem implied_oneAccess {op : Cpu → Cpu} {s t : State} (h : implied op s = .next t) : OneAccess s t :=
  lastRead_oneAccess h

/-- A cycle of a shift or rotate. -/
theorem shiftDst_oneAccess {d : Dst} {f : Byte → Bool → Byte × Bool} {s t : State}
    (h : shiftDst d f s = .next t) : OneAccess s t := by
  cases d <;> simp only [shiftDst] at h
  · exact implied_oneAccess h
  · exact rmwMem_oneAccess h

/-- A cycle of a combined read-modify-write (R320). -/
theorem shiftThen_oneAccess {m : Mem} {f : Byte → Bool → Byte × Bool} {final : Byte → Cpu → Cpu} {s t : State}
    (h : shiftThen m f final s = .next t) : OneAccess s t := rmwMem_oneAccess h

/-- A cycle of a branch (R183). -/
theorem branch_oneAccess {taken : Cpu → Bool} {off : Byte} {s t : State} (h : branch taken off s = .next t) :
    OneAccess s t := by
  unfold branch at h
  split_ifs at h
  · exact onlyCpu_oneAccess (fun c => { c with
      taken := true, ea := s.cpu.pc + sext16 off
      crossed := hi (s.cpu.pc + sext16 off) != hi c.pc, t := c.t + 1 }) h
  · exact onlyCpu_oneAccess (fun c => { c with taken := false, seq := .boundary, t := 1 }) h
  · exact readCycle_oneAccess (fun _ _ => ⟨fun c => { c with pc := cat (hi c.pc) (lo c.ea), t := c.t + 1 }, rfl⟩) h
  · exact readCycle_oneAccess
      (fun _ _ => ⟨fun c => { c with pc := cat (hi c.pc) (lo c.ea), seq := .boundary, t := 1 }, rfl⟩) h
  · exact lastRead_oneAccess h

end Sys2Proof.Machine
end

