-- ==== Sys2Proof/Laws/Exec.lean ====
section
/-! SUPPORT. What a cycle of any instruction does to the rest of the machine: at most one bus access or one draw
(R170), and so to storage at most one byte, and to what no access changes nothing. -/

namespace Sys2Proof.Machine

/-- Every cycle of every instruction makes at most one access. -/
theorem exec_oneAccess {i : Instr} {s t : State} (h : exec i s = .next t) : OneAccess s t := by
  cases i <;> simp only [exec] at h
  case lda | ldx | ldy | adc | sbc | cmp | cpx | cpy | and | ora | eor => exact readSrc_oneAccess h
  case bit | lax | las => exact readMem_oneAccess h
  case sta | stx | sty | sax => exact writeMem_oneAccess h
  case sha | shx | shy | tas => exact unstableStore_oneAccess h
  case inc | dec | dcp | isc => exact rmwMem_oneAccess h
  case slo | rla | sre | rra => exact shiftThen_oneAccess h
  case asl | lsr | rol | ror => exact shiftDst_oneAccess h
  case tax | tay | txa | tya | tsx | txs | inx | iny | dex | dey | clc | sec | cli | sei | cld | sed | clv =>
    exact implied_oneAccess h
  case bpl | bmi | bvc | bvs | bcc | bcs | bne | beq => exact branch_oneAccess h
  case anc | alr | arr | sbx | usbc => exact immediate_oneAccess h
  case lxa v =>
    exact onlyCpu_oneAccess_draw (fun c => { lxaOp (nextDraw s) v c with seq := .boundary, t := 1 }) h
  case ane v =>
    exact onlyCpu_oneAccess_draw (fun c => { aneOp (nextDraw s) v c with seq := .boundary, t := 1 }) h
  case rti => exact returnCycle_oneAccess h
  case jam => exact onlyCpu_oneAccess (fun c => { c with jammed := true }) h
  case nop op n =>
    cases n <;> simp only [execNop] at h
    · exact implied_oneAccess h
    · exact immediate_oneAccess h
    · exact readMem_oneAccess h
  case pha | php =>
    simp only [execPha, execPhp] at h
    split at h
    · exact dummyRead_oneAccess h
    · exact pushCycle_poll_oneAccess h
  case pla | plp =>
    simp only [execPla, execPlp] at h
    split at h
    · exact dummyRead_oneAccess h
    · exact stackBump_oneAccess h
    · exact lastRead_oneAccess h
  case jmp j =>
    cases j <;> simp only [execJmp] at h
    · exact onlyCpu_oneAccess (fun c => { c with pc := _, seq := .boundary, t := 1 }) h
    · split at h
      · exact readCycle_oneAccess (fun v _ => ⟨fun c => { c with data := v, t := c.t + 1 }, rfl⟩) h
      · exact lastRead_oneAccess h
  case jsr w =>
    simp only [execJsr] at h
    split at h
    · exact dummyRead_oneAccess h
    · exact pushCycle_oneAccess (fun _ => ⟨_, rfl⟩) h
    · exact pushCycle_oneAccess (fun _ => ⟨_, rfl⟩) h
    · exact onlyCpu_oneAccess (fun c => { c with pc := w, seq := .boundary, t := 1 }) h
  case rts =>
    simp only [execRts] at h
    split at h
    · exact dummyRead_oneAccess h
    · exact stackBump_oneAccess h
    · exact readCycle_oneAccess (fun v _ => ⟨fun c => { incSp { c with data := v } with t := c.t + 1 }, rfl⟩) h
    · exact readCycle_oneAccess (fun v _ => ⟨fun c => { c with pc := cat v c.data, t := c.t + 1 }, rfl⟩) h
    · exact lastRead_oneAccess h
  case brk =>
    simp only [execBrk] at h
    split at h
    · exact readCycle_oneAccess (fun _ _ => ⟨fun c => { c with pc := c.pc + 1, t := c.t + 1 }, rfl⟩) h
    · exact entryCycle_oneAccess h

/-- A read changes nothing of what no access changes. -/
theorem busRead_fixed {a : Word} {s t : State} {v : Byte} (h : busRead a s = .next (v, t)) : SameFixed s t := by
  simp [SameFixed, busRead_frame h]

/-- A write changes nothing of what no access changes. -/
theorem busWrite_fixed {a : Word} {v : Byte} {s t : State} (h : busWrite a v s = .next t) : SameFixed s t := by
  simp [SameFixed, busWrite_frame h]

/-- One access changes nothing of what no access changes. -/
theorem OneAccess.fixed {s t : State} (h : OneAccess s t) : SameFixed s t := by
  obtain ⟨f, g, s1, ha, rfl⟩ := h
  cases ha with
  | none | draw => simp [SameFixed]
  | read h => simpa [SameFixed] using busRead_fixed h
  | write h => simpa [SameFixed] using busWrite_fixed h

/-- One access leaves RAM as it is, or stores one byte. -/
theorem OneAccess.ram {s t : State} (h : OneAccess s t) :
    t.ram = s.ram ∨ ∃ (a : Word) (v : Byte), t.ram = Cells.write s.ram a.toNat v := by
  obtain ⟨f, g, s1, ha, rfl⟩ := h
  cases ha with
  | none | draw => exact .inl rfl
  | read h => exact .inl (busRead_frame h).2.2.2.1
  | write h => exact (busWrite_ram h).imp_right fun h => ⟨_, _, h⟩

/-- A read stores nothing (R131). -/
theorem busRead_storesNothing {a : Word} {s t : State} {v : Byte} (h : busRead a s = .next (v, t)) :
    StoresNothing s t := by
  have hf := busRead_frame h
  have hd := busRead_devices h
  refine ⟨by simp [hf], by simp [hf], by simp [hf], by simp [hf], by simp [hf], hd.1, hd.2.1, hd.2.2, ?_⟩
  exact busRead_fixed h

end Sys2Proof.Machine
end

