-- ==== Sys2Proof/Laws/PerInstr.lean ====
section
/-! SUPPORT. What holds of each instruction as syntax: a well-formed instruction encodes to its opcode and its
operand bytes, and they are as many as the format of the opcode says (R160, R161). -/

/-- The encoding of a well-formed instruction has the length its opcode's mode gives (R161). -/
def Sys2Proof.Laws.EncodedLength.Statement (i : Sys2Proof.Instr) : Prop :=
  i.wf = true → ∃ op, Sys2Proof.encode i = op :: i.operandBytes ∧ Sys2Proof.lengthOf op = 1 + i.operandBytes.length

theorem Sys2Proof.Laws.EncodedLength.lda (o : Sys2Proof.Src) :
    Sys2Proof.Laws.EncodedLength.Statement (.lda o) := by
  intro h
  rcases o with v | m
  · exact ⟨_, rfl, rfl⟩
  · cases m <;> first | exact ⟨_, rfl, rfl⟩ | exact (Bool.false_ne_true h).elim

theorem Sys2Proof.Laws.EncodedLength.ldx (o : Sys2Proof.Src) :
    Sys2Proof.Laws.EncodedLength.Statement (.ldx o) := by
  intro h
  rcases o with v | m
  · exact ⟨_, rfl, rfl⟩
  · cases m <;> first | exact ⟨_, rfl, rfl⟩ | exact (Bool.false_ne_true h).elim

theorem Sys2Proof.Laws.EncodedLength.ldy (o : Sys2Proof.Src) :
    Sys2Proof.Laws.EncodedLength.Statement (.ldy o) := by
  intro h
  rcases o with v | m
  · exact ⟨_, rfl, rfl⟩
  · cases m <;> first | exact ⟨_, rfl, rfl⟩ | exact (Bool.false_ne_true h).elim

theorem Sys2Proof.Laws.EncodedLength.sta (m : Sys2Proof.Mem) :
    Sys2Proof.Laws.EncodedLength.Statement (.sta m) := by
  intro h
  cases m <;> first | exact ⟨_, rfl, rfl⟩ | exact (Bool.false_ne_true h).elim

theorem Sys2Proof.Laws.EncodedLength.stx (m : Sys2Proof.Mem) :
    Sys2Proof.Laws.EncodedLength.Statement (.stx m) := by
  intro h
  cases m <;> first | exact ⟨_, rfl, rfl⟩ | exact (Bool.false_ne_true h).elim

theorem Sys2Proof.Laws.EncodedLength.sty (m : Sys2Proof.Mem) :
    Sys2Proof.Laws.EncodedLength.Statement (.sty m) := by
  intro h
  cases m <;> first | exact ⟨_, rfl, rfl⟩ | exact (Bool.false_ne_true h).elim

theorem Sys2Proof.Laws.EncodedLength.tax :
    Sys2Proof.Laws.EncodedLength.Statement .tax := fun _ => ⟨_, rfl, rfl⟩

theorem Sys2Proof.Laws.EncodedLength.tay :
    Sys2Proof.Laws.EncodedLength.Statement .tay := fun _ => ⟨_, rfl, rfl⟩

theorem Sys2Proof.Laws.EncodedLength.txa :
    Sys2Proof.Laws.EncodedLength.Statement .txa := fun _ => ⟨_, rfl, rfl⟩

theorem Sys2Proof.Laws.EncodedLength.tya :
    Sys2Proof.Laws.EncodedLength.Statement .tya := fun _ => ⟨_, rfl, rfl⟩

theorem Sys2Proof.Laws.EncodedLength.tsx :
    Sys2Proof.Laws.EncodedLength.Statement .tsx := fun _ => ⟨_, rfl, rfl⟩

theorem Sys2Proof.Laws.EncodedLength.txs :
    Sys2Proof.Laws.EncodedLength.Statement .txs := fun _ => ⟨_, rfl, rfl⟩

theorem Sys2Proof.Laws.EncodedLength.pha :
    Sys2Proof.Laws.EncodedLength.Statement .pha := fun _ => ⟨_, rfl, rfl⟩

theorem Sys2Proof.Laws.EncodedLength.php :
    Sys2Proof.Laws.EncodedLength.Statement .php := fun _ => ⟨_, rfl, rfl⟩

theorem Sys2Proof.Laws.EncodedLength.pla :
    Sys2Proof.Laws.EncodedLength.Statement .pla := fun _ => ⟨_, rfl, rfl⟩

theorem Sys2Proof.Laws.EncodedLength.plp :
    Sys2Proof.Laws.EncodedLength.Statement .plp := fun _ => ⟨_, rfl, rfl⟩

theorem Sys2Proof.Laws.EncodedLength.adc (o : Sys2Proof.Src) :
    Sys2Proof.Laws.EncodedLength.Statement (.adc o) := by
  intro h
  rcases o with v | m
  · exact ⟨_, rfl, rfl⟩
  · cases m <;> first | exact ⟨_, rfl, rfl⟩ | exact (Bool.false_ne_true h).elim

theorem Sys2Proof.Laws.EncodedLength.sbc (o : Sys2Proof.Src) :
    Sys2Proof.Laws.EncodedLength.Statement (.sbc o) := by
  intro h
  rcases o with v | m
  · exact ⟨_, rfl, rfl⟩
  · cases m <;> first | exact ⟨_, rfl, rfl⟩ | exact (Bool.false_ne_true h).elim

theorem Sys2Proof.Laws.EncodedLength.cmp (o : Sys2Proof.Src) :
    Sys2Proof.Laws.EncodedLength.Statement (.cmp o) := by
  intro h
  rcases o with v | m
  · exact ⟨_, rfl, rfl⟩
  · cases m <;> first | exact ⟨_, rfl, rfl⟩ | exact (Bool.false_ne_true h).elim

theorem Sys2Proof.Laws.EncodedLength.cpx (o : Sys2Proof.Src) :
    Sys2Proof.Laws.EncodedLength.Statement (.cpx o) := by
  intro h
  rcases o with v | m
  · exact ⟨_, rfl, rfl⟩
  · cases m <;> first | exact ⟨_, rfl, rfl⟩ | exact (Bool.false_ne_true h).elim

theorem Sys2Proof.Laws.EncodedLength.cpy (o : Sys2Proof.Src) :
    Sys2Proof.Laws.EncodedLength.Statement (.cpy o) := by
  intro h
  rcases o with v | m
  · exact ⟨_, rfl, rfl⟩
  · cases m <;> first | exact ⟨_, rfl, rfl⟩ | exact (Bool.false_ne_true h).elim

theorem Sys2Proof.Laws.EncodedLength.inc (m : Sys2Proof.Mem) :
    Sys2Proof.Laws.EncodedLength.Statement (.inc m) := by
  intro h
  cases m <;> first | exact ⟨_, rfl, rfl⟩ | exact (Bool.false_ne_true h).elim

theorem Sys2Proof.Laws.EncodedLength.dec (m : Sys2Proof.Mem) :
    Sys2Proof.Laws.EncodedLength.Statement (.dec m) := by
  intro h
  cases m <;> first | exact ⟨_, rfl, rfl⟩ | exact (Bool.false_ne_true h).elim

theorem Sys2Proof.Laws.EncodedLength.inx :
    Sys2Proof.Laws.EncodedLength.Statement .inx := fun _ => ⟨_, rfl, rfl⟩

theorem Sys2Proof.Laws.EncodedLength.iny :
    Sys2Proof.Laws.EncodedLength.Statement .iny := fun _ => ⟨_, rfl, rfl⟩

theorem Sys2Proof.Laws.EncodedLength.dex :
    Sys2Proof.Laws.EncodedLength.Statement .dex := fun _ => ⟨_, rfl, rfl⟩

theorem Sys2Proof.Laws.EncodedLength.dey :
    Sys2Proof.Laws.EncodedLength.Statement .dey := fun _ => ⟨_, rfl, rfl⟩

theorem Sys2Proof.Laws.EncodedLength.and (o : Sys2Proof.Src) :
    Sys2Proof.Laws.EncodedLength.Statement (.and o) := by
  intro h
  rcases o with v | m
  · exact ⟨_, rfl, rfl⟩
  · cases m <;> first | exact ⟨_, rfl, rfl⟩ | exact (Bool.false_ne_true h).elim

theorem Sys2Proof.Laws.EncodedLength.ora (o : Sys2Proof.Src) :
    Sys2Proof.Laws.EncodedLength.Statement (.ora o) := by
  intro h
  rcases o with v | m
  · exact ⟨_, rfl, rfl⟩
  · cases m <;> first | exact ⟨_, rfl, rfl⟩ | exact (Bool.false_ne_true h).elim

theorem Sys2Proof.Laws.EncodedLength.eor (o : Sys2Proof.Src) :
    Sys2Proof.Laws.EncodedLength.Statement (.eor o) := by
  intro h
  rcases o with v | m
  · exact ⟨_, rfl, rfl⟩
  · cases m <;> first | exact ⟨_, rfl, rfl⟩ | exact (Bool.false_ne_true h).elim

theorem Sys2Proof.Laws.EncodedLength.bit (m : Sys2Proof.Mem) :
    Sys2Proof.Laws.EncodedLength.Statement (.bit m) := by
  intro h
  cases m <;> first | exact ⟨_, rfl, rfl⟩ | exact (Bool.false_ne_true h).elim

theorem Sys2Proof.Laws.EncodedLength.asl (d : Sys2Proof.Dst) :
    Sys2Proof.Laws.EncodedLength.Statement (.asl d) := by
  intro h
  rcases d with _ | m
  · exact ⟨_, rfl, rfl⟩
  · cases m <;> first | exact ⟨_, rfl, rfl⟩ | exact (Bool.false_ne_true h).elim

theorem Sys2Proof.Laws.EncodedLength.lsr (d : Sys2Proof.Dst) :
    Sys2Proof.Laws.EncodedLength.Statement (.lsr d) := by
  intro h
  rcases d with _ | m
  · exact ⟨_, rfl, rfl⟩
  · cases m <;> first | exact ⟨_, rfl, rfl⟩ | exact (Bool.false_ne_true h).elim

theorem Sys2Proof.Laws.EncodedLength.rol (d : Sys2Proof.Dst) :
    Sys2Proof.Laws.EncodedLength.Statement (.rol d) := by
  intro h
  rcases d with _ | m
  · exact ⟨_, rfl, rfl⟩
  · cases m <;> first | exact ⟨_, rfl, rfl⟩ | exact (Bool.false_ne_true h).elim

theorem Sys2Proof.Laws.EncodedLength.ror (d : Sys2Proof.Dst) :
    Sys2Proof.Laws.EncodedLength.Statement (.ror d) := by
  intro h
  rcases d with _ | m
  · exact ⟨_, rfl, rfl⟩
  · cases m <;> first | exact ⟨_, rfl, rfl⟩ | exact (Bool.false_ne_true h).elim

theorem Sys2Proof.Laws.EncodedLength.jmp (j : Sys2Proof.JumpTo) :
    Sys2Proof.Laws.EncodedLength.Statement (.jmp j) := by
  intro _
  cases j <;> exact ⟨_, rfl, rfl⟩

theorem Sys2Proof.Laws.EncodedLength.jsr (w : Sys2Proof.Word) :
    Sys2Proof.Laws.EncodedLength.Statement (.jsr w) := fun _ => ⟨_, rfl, rfl⟩

theorem Sys2Proof.Laws.EncodedLength.rts :
    Sys2Proof.Laws.EncodedLength.Statement .rts := fun _ => ⟨_, rfl, rfl⟩

theorem Sys2Proof.Laws.EncodedLength.rti :
    Sys2Proof.Laws.EncodedLength.Statement .rti := fun _ => ⟨_, rfl, rfl⟩

theorem Sys2Proof.Laws.EncodedLength.brk :
    Sys2Proof.Laws.EncodedLength.Statement .brk := fun _ => ⟨_, rfl, rfl⟩

theorem Sys2Proof.Laws.EncodedLength.bpl (off : Sys2Proof.Byte) :
    Sys2Proof.Laws.EncodedLength.Statement (.bpl off) := fun _ => ⟨_, rfl, rfl⟩

theorem Sys2Proof.Laws.EncodedLength.bmi (off : Sys2Proof.Byte) :
    Sys2Proof.Laws.EncodedLength.Statement (.bmi off) := fun _ => ⟨_, rfl, rfl⟩

theorem Sys2Proof.Laws.EncodedLength.bvc (off : Sys2Proof.Byte) :
    Sys2Proof.Laws.EncodedLength.Statement (.bvc off) := fun _ => ⟨_, rfl, rfl⟩

theorem Sys2Proof.Laws.EncodedLength.bvs (off : Sys2Proof.Byte) :
    Sys2Proof.Laws.EncodedLength.Statement (.bvs off) := fun _ => ⟨_, rfl, rfl⟩

theorem Sys2Proof.Laws.EncodedLength.bcc (off : Sys2Proof.Byte) :
    Sys2Proof.Laws.EncodedLength.Statement (.bcc off) := fun _ => ⟨_, rfl, rfl⟩

theorem Sys2Proof.Laws.EncodedLength.bcs (off : Sys2Proof.Byte) :
    Sys2Proof.Laws.EncodedLength.Statement (.bcs off) := fun _ => ⟨_, rfl, rfl⟩

theorem Sys2Proof.Laws.EncodedLength.bne (off : Sys2Proof.Byte) :
    Sys2Proof.Laws.EncodedLength.Statement (.bne off) := fun _ => ⟨_, rfl, rfl⟩

theorem Sys2Proof.Laws.EncodedLength.beq (off : Sys2Proof.Byte) :
    Sys2Proof.Laws.EncodedLength.Statement (.beq off) := fun _ => ⟨_, rfl, rfl⟩

theorem Sys2Proof.Laws.EncodedLength.clc :
    Sys2Proof.Laws.EncodedLength.Statement .clc := fun _ => ⟨_, rfl, rfl⟩

theorem Sys2Proof.Laws.EncodedLength.sec :
    Sys2Proof.Laws.EncodedLength.Statement .sec := fun _ => ⟨_, rfl, rfl⟩

theorem Sys2Proof.Laws.EncodedLength.cli :
    Sys2Proof.Laws.EncodedLength.Statement .cli := fun _ => ⟨_, rfl, rfl⟩

theorem Sys2Proof.Laws.EncodedLength.sei :
    Sys2Proof.Laws.EncodedLength.Statement .sei := fun _ => ⟨_, rfl, rfl⟩

theorem Sys2Proof.Laws.EncodedLength.cld :
    Sys2Proof.Laws.EncodedLength.Statement .cld := fun _ => ⟨_, rfl, rfl⟩

theorem Sys2Proof.Laws.EncodedLength.sed :
    Sys2Proof.Laws.EncodedLength.Statement .sed := fun _ => ⟨_, rfl, rfl⟩

theorem Sys2Proof.Laws.EncodedLength.clv :
    Sys2Proof.Laws.EncodedLength.Statement .clv := fun _ => ⟨_, rfl, rfl⟩

theorem Sys2Proof.Laws.EncodedLength.nop (op : Sys2Proof.Byte) (n : Sys2Proof.NopArg) :
    Sys2Proof.Laws.EncodedLength.Statement (.nop op n) := by
  intro h
  have hop : op ∈ Sys2Proof.nopOpcodes n.mode := by simpa [Sys2Proof.Instr.wf] using h
  rcases n with _ | v | m
  on_goal 3 => cases m
  all_goals
    simp only [Sys2Proof.NopArg.mode, Sys2Proof.Mem.mode, Sys2Proof.nopOpcodes, List.mem_cons, List.not_mem_nil,
      or_false] at hop
    try rcases hop with rfl | rfl | rfl | rfl | rfl | rfl | rfl
    try rcases hop with rfl | rfl | rfl | rfl | rfl | rfl
    try rcases hop with rfl | rfl | rfl | rfl | rfl
    try rcases hop with rfl | rfl | rfl
    try subst hop
  all_goals exact ⟨_, rfl, rfl⟩

theorem Sys2Proof.Laws.EncodedLength.slo (m : Sys2Proof.Mem) :
    Sys2Proof.Laws.EncodedLength.Statement (.slo m) := by
  intro h
  cases m <;> first | exact ⟨_, rfl, rfl⟩ | exact (Bool.false_ne_true h).elim

theorem Sys2Proof.Laws.EncodedLength.rla (m : Sys2Proof.Mem) :
    Sys2Proof.Laws.EncodedLength.Statement (.rla m) := by
  intro h
  cases m <;> first | exact ⟨_, rfl, rfl⟩ | exact (Bool.false_ne_true h).elim

theorem Sys2Proof.Laws.EncodedLength.sre (m : Sys2Proof.Mem) :
    Sys2Proof.Laws.EncodedLength.Statement (.sre m) := by
  intro h
  cases m <;> first | exact ⟨_, rfl, rfl⟩ | exact (Bool.false_ne_true h).elim

theorem Sys2Proof.Laws.EncodedLength.rra (m : Sys2Proof.Mem) :
    Sys2Proof.Laws.EncodedLength.Statement (.rra m) := by
  intro h
  cases m <;> first | exact ⟨_, rfl, rfl⟩ | exact (Bool.false_ne_true h).elim

theorem Sys2Proof.Laws.EncodedLength.dcp (m : Sys2Proof.Mem) :
    Sys2Proof.Laws.EncodedLength.Statement (.dcp m) := by
  intro h
  cases m <;> first | exact ⟨_, rfl, rfl⟩ | exact (Bool.false_ne_true h).elim

theorem Sys2Proof.Laws.EncodedLength.isc (m : Sys2Proof.Mem) :
    Sys2Proof.Laws.EncodedLength.Statement (.isc m) := by
  intro h
  cases m <;> first | exact ⟨_, rfl, rfl⟩ | exact (Bool.false_ne_true h).elim

theorem Sys2Proof.Laws.EncodedLength.sax (m : Sys2Proof.Mem) :
    Sys2Proof.Laws.EncodedLength.Statement (.sax m) := by
  intro h
  cases m <;> first | exact ⟨_, rfl, rfl⟩ | exact (Bool.false_ne_true h).elim

theorem Sys2Proof.Laws.EncodedLength.lax (m : Sys2Proof.Mem) :
    Sys2Proof.Laws.EncodedLength.Statement (.lax m) := by
  intro h
  cases m <;> first | exact ⟨_, rfl, rfl⟩ | exact (Bool.false_ne_true h).elim

theorem Sys2Proof.Laws.EncodedLength.lxa (v : Sys2Proof.Byte) :
    Sys2Proof.Laws.EncodedLength.Statement (.lxa v) := fun _ => ⟨_, rfl, rfl⟩

theorem Sys2Proof.Laws.EncodedLength.anc (op : Sys2Proof.Byte) (v : Sys2Proof.Byte) :
    Sys2Proof.Laws.EncodedLength.Statement (.anc op v) := by
  intro h
  have hop : op ∈ Sys2Proof.ancOpcodes := by simpa [Sys2Proof.Instr.wf] using h
  simp only [Sys2Proof.ancOpcodes, List.mem_cons, List.not_mem_nil, or_false] at hop
  rcases hop with rfl | rfl <;> exact ⟨_, rfl, rfl⟩

theorem Sys2Proof.Laws.EncodedLength.alr (v : Sys2Proof.Byte) :
    Sys2Proof.Laws.EncodedLength.Statement (.alr v) := fun _ => ⟨_, rfl, rfl⟩

theorem Sys2Proof.Laws.EncodedLength.arr (v : Sys2Proof.Byte) :
    Sys2Proof.Laws.EncodedLength.Statement (.arr v) := fun _ => ⟨_, rfl, rfl⟩

theorem Sys2Proof.Laws.EncodedLength.ane (v : Sys2Proof.Byte) :
    Sys2Proof.Laws.EncodedLength.Statement (.ane v) := fun _ => ⟨_, rfl, rfl⟩

theorem Sys2Proof.Laws.EncodedLength.sbx (v : Sys2Proof.Byte) :
    Sys2Proof.Laws.EncodedLength.Statement (.sbx v) := fun _ => ⟨_, rfl, rfl⟩

theorem Sys2Proof.Laws.EncodedLength.usbc (v : Sys2Proof.Byte) :
    Sys2Proof.Laws.EncodedLength.Statement (.usbc v) := fun _ => ⟨_, rfl, rfl⟩

theorem Sys2Proof.Laws.EncodedLength.jam (op : Sys2Proof.Byte) :
    Sys2Proof.Laws.EncodedLength.Statement (.jam op) := by
  intro h
  have hop : op ∈ Sys2Proof.jamOpcodes := by simpa [Sys2Proof.Instr.wf] using h
  simp only [Sys2Proof.jamOpcodes, List.mem_cons, List.not_mem_nil, or_false] at hop
  rcases hop with rfl | rfl | rfl | rfl | rfl | rfl | rfl | rfl | rfl | rfl | rfl | rfl <;> exact ⟨_, rfl, rfl⟩

theorem Sys2Proof.Laws.EncodedLength.sha (m : Sys2Proof.Mem) :
    Sys2Proof.Laws.EncodedLength.Statement (.sha m) := by
  intro h
  cases m <;> first | exact ⟨_, rfl, rfl⟩ | exact (Bool.false_ne_true h).elim

theorem Sys2Proof.Laws.EncodedLength.shx (m : Sys2Proof.Mem) :
    Sys2Proof.Laws.EncodedLength.Statement (.shx m) := by
  intro h
  cases m <;> first | exact ⟨_, rfl, rfl⟩ | exact (Bool.false_ne_true h).elim

theorem Sys2Proof.Laws.EncodedLength.shy (m : Sys2Proof.Mem) :
    Sys2Proof.Laws.EncodedLength.Statement (.shy m) := by
  intro h
  cases m <;> first | exact ⟨_, rfl, rfl⟩ | exact (Bool.false_ne_true h).elim

theorem Sys2Proof.Laws.EncodedLength.tas (m : Sys2Proof.Mem) :
    Sys2Proof.Laws.EncodedLength.Statement (.tas m) := by
  intro h
  cases m <;> first | exact ⟨_, rfl, rfl⟩ | exact (Bool.false_ne_true h).elim

theorem Sys2Proof.Laws.EncodedLength.las (m : Sys2Proof.Mem) :
    Sys2Proof.Laws.EncodedLength.Statement (.las m) := by
  intro h
  cases m <;> first | exact ⟨_, rfl, rfl⟩ | exact (Bool.false_ne_true h).elim
end

