-- ==== Sys2Proof/Tests/Slice0.lean ====
section
/-! SUPPORT. The model's own tests. The expected values are those of the Example lines of files 40 to 46 and of
the vectors of 95_test_vectors.md, named at each test, or are worked by hand from the rule named; the words are
written out from the Encoding lists. The `wit_` theorems show that the hypotheses of the statements of
Certificates/Slice0/Obligations.lean can be met. -/

namespace Sys2Proof.Tests

open Sys2Proof Sys2Proof.Machine

/-! ## Helpers -/

/-- The CPU of the vectors of 95_test_vectors.md: PC = $0200, S = $FD, all flags 0, in cycle `t` of opcode `op`. -/
def cpuAt (op : Byte) (t : Nat) : Cpu :=
  { cpuAfterReset with pc := 0x0200, i := false, seq := .instr op, t := t }

/-- A state with this RAM and this CPU, every bank RAM (R509 `all_ram_banks`). -/
def ramState (m : Memory) (c : Cpu) : State := { State.reset with ddr := 0x07, ram := m, cpu := c }

/-- The same with the I/O window mapped (the port as reset leaves it). -/
def ioState (m : Memory) (c : Cpu) : State := { State.reset with ram := m, cpu := c }

/-- A state in a badline's window (R438, R439). -/
def stolen : State :=
  { State.reset with
    vic := { vicReset with line := 0x30, cyc := 20, denSeen := true, cells := [(0x11, 0x10)], eqPrev := true } }

/-- A, X, Y, S and `P(1)`. -/
abbrev Regs := Byte × Byte × Byte × Byte × Byte

/-- The registers of a CPU. -/
def regsOf (c : Cpu) : Regs := (c.a, c.x, c.y, c.sp, packP true c)

/-- The registers after a cycle. -/
def seen : Answer State → Option Regs
  | .next t => some (regsOf t.cpu)
  | .fault _ => none
  | .refused _ => none

/-- PC after a cycle. -/
def pcSeen : Answer State → Option Word
  | .next t => some t.cpu.pc
  | .fault _ => none
  | .refused _ => none

/-- The byte of RAM at `a` after a cycle. -/
def ramSeen (a : Nat) : Answer State → Option Byte
  | .next t => some (Cells.read t.ram a)
  | .fault _ => none
  | .refused _ => none

/-- The CPU after a cycle. -/
def cpuSeen : Answer State → Option Cpu
  | .next t => some t.cpu
  | .fault _ => none
  | .refused _ => none

/-! ## Well-formedness: an ill-formed term for each check, refused -/

theorem test_wf_refuses :
    [Instr.lda (.mem (.zpY 0)), .adc (.mem (.zpY 0)), .sbc (.mem (.zpY 0)), .cmp (.mem (.zpY 0)), .and (.mem (.zpY 0)),
      .ora (.mem (.zpY 0)), .eor (.mem (.zpY 0)), .sta (.zpY 0), .ldx (.mem (.zpX 0)), .ldx (.mem (.absX 0)),
      .ldy (.mem (.zpY 0)), .ldy (.mem (.absY 0)), .cpx (.mem (.zpX 0)), .cpy (.mem (.absX 0)), .stx (.zpX 0),
      .stx (.absY 0), .sty (.zpY 0), .sty (.absX 0), .bit (.zpX 0), .inc (.absY 0), .dec (.indX 0),
      .asl (.mem (.zpY 0)), .lsr (.mem (.absY 0)), .rol (.mem (.indX 0)), .ror (.mem (.indY 0)), .slo (.zpY 0),
      .rla (.zpY 0), .sre (.zpY 0), .rra (.zpY 0), .dcp (.zpY 0), .isc (.zpY 0), .sax (.zpX 0), .sax (.absY 0),
      .lax (.zpX 0), .lax (.absX 0), .sha (.absX 0), .sha (.zp 0), .shx (.absX 0), .shy (.absY 0), .tas (.abs 0),
      .las (.absX 0), .jam 0x82, .anc 0x0A 0, .nop 0xEB .implied, .nop 0xEA (.imm 0), .nop 0x0C (.mem (.zp 0)),
      .nop 0xDC (.mem (.absY 0))].all (fun i => !i.wf) = true := by decide

theorem test_wf_accepts :
    [Instr.lda (.imm 0), .lda (.mem (.indY 0)), .ldx (.mem (.absY 0)), .stx (.zpY 0), .asl .acc, .lax (.zpY 0),
      .sha (.indY 0), .shy (.absX 0), .jam 0xF2, .anc 0x2B 7, .nop 0xEA .implied, .nop 0x89 (.imm 3),
      .nop 0xFC (.mem (.absX 9))].all (·.wf) = true := by decide

/-! ## Decoding: words written out from the Encoding lists, every constructor -/

/-- A word and the instruction it stands for. -/
def reads (bs : List Byte) (i : Instr) : Bool := decide (decode bs = .instr i []) && decide (encode i = bs)

-- R201 to R212.
theorem test_decode_40 :
    (reads [0xA9, 0x12] (.lda (.imm 0x12)) && reads [0xB1, 0x40] (.lda (.mem (.indY 0x40)))
      && reads [0xA2, 0x00] (.ldx (.imm 0)) && reads [0xB6, 0xF0] (.ldx (.mem (.zpY 0xF0)))
      && reads [0xA0, 0xFF] (.ldy (.imm 0xFF)) && reads [0xBC, 0x34, 0x12] (.ldy (.mem (.absX 0x1234)))
      && reads [0x8D, 0x00, 0x04] (.sta (.abs 0x0400)) && reads [0x81, 0x20] (.sta (.indX 0x20))
      && reads [0x86, 0x01] (.stx (.zp 1)) && reads [0x8C, 0x20, 0xD0] (.sty (.abs 0xD020))
      && reads [0xAA] .tax && reads [0xA8] .tay && reads [0x8A] .txa && reads [0x98] .tya && reads [0xBA] .tsx
      && reads [0x9A] .txs) = true := by decide

-- R230 to R233, R240 to R252.
theorem test_decode_41_42 :
    (reads [0x48] .pha && reads [0x08] .php && reads [0x68] .pla && reads [0x28] .plp
      && reads [0x69, 0x50] (.adc (.imm 0x50)) && reads [0x61, 0x10] (.adc (.mem (.indX 0x10)))
      && reads [0xE9, 0xB0] (.sbc (.imm 0xB0)) && reads [0xF9, 0xCD, 0xAB] (.sbc (.mem (.absY 0xABCD)))
      && reads [0xC9, 0x20] (.cmp (.imm 0x20)) && reads [0xE4, 0x10] (.cpx (.mem (.zp 0x10)))
      && reads [0xCC, 0x01, 0x02] (.cpy (.mem (.abs 0x0201))) && reads [0xE6, 0x10] (.inc (.zp 0x10))
      && reads [0xDE, 0x34, 0x12] (.dec (.absX 0x1234)) && reads [0xE8] .inx && reads [0xC8] .iny && reads [0xCA] .dex
      && reads [0x88] .dey) = true := by decide

-- R270 to R277.
theorem test_decode_43 :
    (reads [0x29, 0x3C] (.and (.imm 0x3C)) && reads [0x0D, 0x55, 0xAA] (.ora (.mem (.abs 0xAA55)))
      && reads [0x49, 0x0F] (.eor (.imm 0x0F)) && reads [0x2C, 0x00, 0x10] (.bit (.abs 0x1000)) && reads [0x0A] (.asl .acc)
      && reads [0x56, 0x80] (.lsr (.mem (.zpX 0x80))) && reads [0x2A] (.rol .acc)
      && reads [0x7E, 0x00, 0x10] (.ror (.mem (.absX 0x1000)))) = true := by decide

-- R290 to R303.
theorem test_decode_44 :
    (reads [0x4C, 0x34, 0x12] (.jmp (.abs 0x1234)) && reads [0x6C, 0xFF, 0x10] (.jmp (.ind 0x10FF))
      && reads [0x20, 0x34, 0x12] (.jsr 0x1234) && reads [0x60] .rts && reads [0x40] .rti && reads [0x00] .brk
      && reads [0x10, 0x80] (.bpl 0x80) && reads [0x30, 0x10] (.bmi 0x10) && reads [0x50, 0x10] (.bvc 0x10)
      && reads [0x70, 0x01] (.bvs 1) && reads [0x90, 0x02] (.bcc 2) && reads [0xB0, 0xFE] (.bcs 0xFE)
      && reads [0xD0, 0x10] (.bne 0x10) && reads [0xF0, 0x7F] (.beq 0x7F)) = true := by decide

-- R310 to R317.
theorem test_decode_45 :
    (reads [0x18] .clc && reads [0x38] .sec && reads [0x58] .cli && reads [0x78] .sei && reads [0xD8] .cld
      && reads [0xF8] .sed && reads [0xB8] .clv && reads [0xEA] (.nop 0xEA .implied)) = true := by decide

-- R321 to R342.
theorem test_decode_46 :
    (reads [0x07, 0x10] (.slo (.zp 0x10)) && reads [0x3B, 0x34, 0x12] (.rla (.absY 0x1234))
      && reads [0x43, 0x10] (.sre (.indX 0x10)) && reads [0x77, 0x10] (.rra (.zpX 0x10))
      && reads [0xD3, 0x10] (.dcp (.indY 0x10)) && reads [0xEF, 0x34, 0x12] (.isc (.abs 0x1234))
      && reads [0x97, 0x10] (.sax (.zpY 0x10)) && reads [0xB3, 0x40] (.lax (.indY 0x40)) && reads [0xAB, 0x0F] (.lxa 0x0F)
      && reads [0x0B, 0x80] (.anc 0x0B 0x80) && reads [0x2B, 0x80] (.anc 0x2B 0x80) && reads [0x4B, 0x03] (.alr 3)
      && reads [0x6B, 0xFF] (.arr 0xFF) && reads [0x8B, 0xFF] (.ane 0xFF) && reads [0xCB, 0x01] (.sbx 1)
      && reads [0xEB, 0x01] (.usbc 1) && reads [0x92] (.jam 0x92) && reads [0x93, 0x40] (.sha (.indY 0x40))
      && reads [0x9E, 0x00, 0x12] (.shx (.absY 0x1200)) && reads [0x9C, 0x00, 0x12] (.shy (.absX 0x1200))
      && reads [0x9B, 0x00, 0x12] (.tas (.absY 0x1200)) && reads [0xBB, 0x00, 0x10] (.las (.absY 0x1000))
      && reads [0x1A] (.nop 0x1A .implied) && reads [0xC2, 0x12] (.nop 0xC2 (.imm 0x12))
      && reads [0x54, 0x10] (.nop 0x54 (.mem (.zpX 0x10))) && reads [0x0C, 0x00, 0x12] (.nop 0x0C (.mem (.abs 0x1200)))
      && reads [0x1C, 0xF0, 0x12] (.nop 0x1C (.mem (.absX 0x12F0)))) = true := by decide

-- R160: a short list is refused by name; an opcode table word is read with zeros above it.
theorem test_decode_short : (decode [0x4C, 0x34] matches .reject _) = true ∧ (decode [] matches .reject _) = true
    ∧ decodeTableWord 8 0x4C = some (.jmp (.abs 0)) := by decide

/-! ## One cycle of an instruction: the one that operates -/

-- V40.2, V40.7: `LDA ($FF),Y` with the pointer $12F8 latched.
theorem test_lda : seen (exec (.lda (.imm 0x80)) (ramState [] (cpuAt 0xA9 2))) = some (0x80, 0, 0, 0xFD, 0xB0)
    ∧ seen (exec (.lda (.mem (.indY 0xFF))) (ramState [(0x1308, 0x5A)]
      { cpuAt 0xB1 6 with y := 0x10, base := 0x12F8 })) = some (0x5A, 0, 0x10, 0xFD, 0x30) := by decide

-- V40.8: `LDX $F0,Y`, Y = $20, wraps in the zero page.
theorem test_ldx : seen (exec (.ldx (.mem (.zpY 0xF0))) (ramState [(0x110, 0x99)] { cpuAt 0xB6 4 with y := 0x20, x := 7 }))
    = some (0, 0, 0x20, 0xFD, 0x32) := by decide

-- R203's example.
theorem test_ldy : seen (exec (.ldy (.imm 0xFF)) (ramState [] (cpuAt 0xA0 2))) = some (0, 0, 0xFF, 0xFD, 0xB0) := by decide

-- V40.9: `STA $12F0,X`, X = $20, A = $77, writes at $1310 in T5.
theorem test_sta : ramSeen 0x1310 (exec (.sta (.absX 0x12F0)) (ramState [] { cpuAt 0x9D 5 with x := 0x20, a := 0x77 }))
    = some 0x77 := by decide

-- V40.11: `STX $80,Y`, X = $AB, Y = $90.
theorem test_stx : ramSeen 0x10 (exec (.stx (.zpY 0x80)) (ramState [] { cpuAt 0x96 4 with x := 0xAB, y := 0x90 }))
    = some 0xAB := by decide

-- R206's example: `STY $D020`, Y = 0, to the border colour register; here Y = 5.
theorem test_sty : exec (.sty (.abs 0xD020)) (ioState [] { cpuAt 0x8C 4 with y := 5 }) matches .next
    { ram := [], vic := { cells := [(0x20, 5)], .. }, .. } := by decide

-- V40.12, V40.15, V40.14, V40.13; TAY and TXA from R208 and R209.
theorem test_tax : seen (exec .tax (ramState [] { cpuAt 0xAA 2 with x := 0x55 })) = some (0, 0, 0, 0xFD, 0x32) := by decide

theorem test_tay : seen (exec .tay (ramState [] { cpuAt 0xA8 2 with a := 0x81 })) = some (0x81, 0, 0x81, 0xFD, 0xB0) := by
  decide

theorem test_txa : seen (exec .txa (ramState [] { cpuAt 0x8A 2 with x := 0x7F, a := 1 })) = some (0x7F, 0x7F, 0, 0xFD, 0x30) := by
  decide

theorem test_tya : seen (exec .tya (ramState [] { cpuAt 0x98 2 with y := 0xFF })) = some (0xFF, 0, 0xFF, 0xFD, 0xB0) := by
  decide

theorem test_tsx : seen (exec .tsx (ramState [] { cpuAt 0xBA 2 with sp := 0x80 })) = some (0, 0x80, 0, 0x80, 0xB0) := by decide

theorem test_txs : seen (exec .txs (ramState [] { cpuAt 0x9A 2 with n := true })) = some (0, 0, 0, 0, 0xB0) := by decide

-- V41.1: PHA with S = $00 wraps.
theorem test_pha : ramSeen 0x100 (exec .pha (ramState [] { cpuAt 0x48 3 with a := 0x3C, sp := 0 })) = some 0x3C
    ∧ seen (exec .pha (ramState [] { cpuAt 0x48 3 with a := 0x3C, sp := 0 })) = some (0x3C, 0, 0, 0xFF, 0x30) := by decide

-- R231's example: N = C = 1, S = $FF: $B1 at $01FF.
theorem test_php : ramSeen 0x1FF (exec .php (ramState [] { cpuAt 0x08 3 with n := true, c := true, sp := 0xFF }))
    = some 0xB1 := by decide

-- V41.3 in T4, S already incremented.
theorem test_pla : seen (exec .pla (ramState [] { cpuAt 0x68 4 with a := 0x55 })) = some (0, 0, 0, 0xFD, 0x32) := by decide

-- V41.4 in T4.
theorem test_plp : seen (exec .plp (ramState [(0x1FD, 0xFF)] (cpuAt 0x28 4))) = some (0, 0, 0, 0xFD, 0xFF) := by decide

-- V42.4 and V42.13.
theorem test_adc : seen (exec (.adc (.imm 0)) (ramState [] { cpuAt 0x69 2 with a := 0x7F, c := true }))
      = some (0x80, 0, 0, 0xFD, 0xF0)
    ∧ seen (exec (.adc (.imm 1)) (ramState [] { cpuAt 0x69 2 with a := 0x99, d := true }))
      = some (0, 0, 0, 0xFD, 0xB9) := by decide

-- V42.9 and V42.21.
theorem test_sbc : seen (exec (.sbc (.imm 1)) (ramState [] { cpuAt 0xE9 2 with a := 0x80, c := true }))
      = some (0x7F, 0, 0, 0xFD, 0x71)
    ∧ seen (exec (.sbc (.imm 1)) (ramState [] { cpuAt 0xE9 2 with c := true, d := true }))
      = some (0x99, 0, 0, 0xFD, 0xB8) := by decide

-- V42.26, V42.27, V42.28.
theorem test_cmp : seen (exec (.cmp (.imm 0xC0)) (ramState [] { cpuAt 0xC9 2 with a := 0x40 }))
    = some (0x40, 0, 0, 0xFD, 0xB0) := by decide

theorem test_cpx : seen (exec (.cpx (.imm 0)) (ramState [] { cpuAt 0xE0 2 with x := 0x80 })) = some (0, 0x80, 0, 0xFD, 0xB1) := by
  decide

theorem test_cpy : seen (exec (.cpy (.imm 0xFF)) (ramState [] { cpuAt 0xC0 2 with y := 0xFF }))
    = some (0, 0, 0xFF, 0xFD, 0x33) := by decide

-- V42.29: T4 writes the datum $FF back, T5 the result 0.
theorem test_inc : seen (exec (.inc (.zp 0x10)) (ramState [] { cpuAt 0xE6 4 with data := 0xFF })) = some (0, 0, 0, 0xFD, 0x32)
    ∧ ramSeen 0x10 (exec (.inc (.zp 0x10)) (ramState [] { cpuAt 0xE6 4 with data := 0xFF })) = some 0xFF := by decide

-- V42.30: `DEC $1234,X`, X = 1, in T7 the result is written.
theorem test_dec : ramSeen 0x1235 (exec (.dec (.absX 0x1234)) (ramState [] { cpuAt 0xDE 7 with x := 1, data := 0xFF }))
      = some 0xFF
    ∧ seen (exec (.dec (.absX 0x1234)) (ramState [] { cpuAt 0xDE 6 with x := 1 })) = some (0, 1, 0, 0xFD, 0xB0) := by decide

-- V42.31, V42.32; INY and DEX from R250 and R251.
theorem test_inx : seen (exec .inx (ramState [] { cpuAt 0xE8 2 with x := 0x7F })) = some (0, 0x80, 0, 0xFD, 0xB0) := by decide

theorem test_iny : seen (exec .iny (ramState [] { cpuAt 0xC8 2 with y := 0xFF })) = some (0, 0, 0, 0xFD, 0x32) := by decide

theorem test_dex : seen (exec .dex (ramState [] { cpuAt 0xCA 2 with x := 1 })) = some (0, 0, 0, 0xFD, 0x32) := by decide

theorem test_dey : seen (exec .dey (ramState [] (cpuAt 0x88 2))) = some (0, 0, 0xFF, 0xFD, 0xB0) := by decide

-- V43.1, V43.2, R272's example, V43.4.
theorem test_and : seen (exec (.and (.imm 0x0F)) (ramState [] { cpuAt 0x29 2 with a := 0xF0 })) = some (0, 0, 0, 0xFD, 0x32) := by
  decide

theorem test_ora : seen (exec (.ora (.imm 0x80)) (ramState [] { cpuAt 0x09 2 with a := 1 })) = some (0x81, 0, 0, 0xFD, 0xB0) := by
  decide

theorem test_eor : seen (exec (.eor (.imm 0x0F)) (ramState [] { cpuAt 0x49 2 with a := 0xFF }))
    = some (0xF0, 0, 0, 0xFD, 0xB0) := by decide

theorem test_bit : seen (exec (.bit (.zp 0x10)) (ramState [(0x10, 0xC0)] { cpuAt 0x24 3 with a := 0x0F }))
    = some (0x0F, 0, 0, 0xFD, 0xF2) := by decide

-- R274's example and V43.10 in T4.
theorem test_asl : seen (exec (.asl .acc) (ramState [] { cpuAt 0x0A 2 with a := 0x81 })) = some (2, 0, 0, 0xFD, 0x31)
    ∧ seen (exec (.asl (.mem (.zp 0x10))) (ramState [] { cpuAt 0x06 4 with data := 0x41 })) = some (0, 0, 0, 0xFD, 0xB0) := by
  decide

-- R275's example.
theorem test_lsr : seen (exec (.lsr .acc) (ramState [] { cpuAt 0x4A 2 with a := 3 })) = some (1, 0, 0, 0xFD, 0x31) := by decide

-- R276's example, V43.8.
theorem test_rol : seen (exec (.rol .acc) (ramState [] { cpuAt 0x2A 2 with a := 0x40, c := true })) = some (0x81, 0, 0, 0xFD, 0xB0)
    ∧ seen (exec (.rol .acc) (ramState [] { cpuAt 0x2A 2 with a := 0x80 })) = some (0, 0, 0, 0xFD, 0x33) := by decide

-- R277's example and V43.11 in T7.
theorem test_ror : seen (exec (.ror .acc) (ramState [] { cpuAt 0x6A 2 with a := 2, c := true })) = some (0x81, 0, 0, 0xFD, 0xB0)
    ∧ ramSeen 0x1000 (exec (.ror (.mem (.absX 0x1000))) (ramState [] { cpuAt 0x7E 7 with data := 0x80 })) = some 0x80 := by
  decide

-- V44.2 in T5: the high byte comes from $1000, not $1100.
theorem test_jmp : pcSeen (exec (.jmp (.ind 0x10FF)) (ramState [(0x1000, 0x12), (0x10FF, 0x34), (0x1100, 0x56)]
      { cpuAt 0x6C 5 with data := 0x34 })) = some 0x1234
    ∧ pcSeen (exec (.jmp (.abs 0x1234)) (ramState [] (cpuAt 0x4C 3))) = some 0x1234 := by decide

-- V44.3: the low byte of $0202 in T5, the target in T6.
theorem test_jsr : ramSeen 0x1FC (exec (.jsr 0x1000) (ramState [] { cpuAt 0x20 5 with pc := 0x0202, sp := 0xFC })) = some 2
    ∧ pcSeen (exec (.jsr 0x1000) (ramState [] { cpuAt 0x20 6 with pc := 0x0203 })) = some 0x1000 := by decide

-- R292's example: T5 loads $C002, T6 goes one further.
theorem test_rts : pcSeen (exec .rts (ramState [(0x1FD, 0xC0)] { cpuAt 0x60 5 with data := 2 })) = some 0xC002
    ∧ pcSeen (exec .rts (ramState [] { cpuAt 0x60 6 with pc := 0xC002 })) = some 0xC003 := by decide

-- V44.5: the flags in T4, PC in T6.
theorem test_rti : seen (exec .rti (ramState [(0x1FB, 0xFF)] { cpuAt 0x40 4 with sp := 0xFB })) = some (0, 0, 0, 0xFC, 0xFF)
    ∧ pcSeen (exec .rti (ramState [(0x1FD, 0x12)] { cpuAt 0x40 6 with data := 0x34 })) = some 0x1234 := by decide

-- V44.6: P is pushed with B set; the vector is followed.
theorem test_brk : ramSeen 0x1FB (exec .brk (ramState [] { cpuAt 0x00 5 with sp := 0xFB })) = some 0x30
    ∧ pcSeen (exec .brk (ramState [(0xFFFF, 0x30)] { cpuAt 0x00 7 with ea := 0xFFFE })) = some 0x3000 := by decide

/-- A taken branch's target and whether it crosses, as T2 latches them. -/
def target : Answer State → Option (Bool × Word × Bool)
  | .next t => some (t.cpu.taken, t.cpu.ea, t.cpu.crossed)
  | .fault _ => none
  | .refused _ => none

-- V44.10: `BPL -$80` at $0200.
theorem test_bpl : target (exec (.bpl 0x80) (ramState [] { cpuAt 0x10 2 with pc := 0x0202 })) = some (true, 0x0182, true) := by
  decide

-- V44.14: `BMI` not taken.
theorem test_bmi : cpuSeen (exec (.bmi 0x10) (ramState [] { cpuAt 0x30 2 with pc := 0x0202 }))
    = some { cpuAt 0x30 1 with pc := 0x0202, seq := .boundary } := by decide

-- V44.13: `BVC +$10` at $FFFC wraps.
theorem test_bvc : target (exec (.bvc 0x10) (ramState [] { cpuAt 0x50 2 with pc := 0xFFFE })) = some (true, 0x000E, true) := by
  decide

-- R299, V = 1.
theorem test_bvs : target (exec (.bvs 0x01) (ramState [] { cpuAt 0x70 2 with pc := 0x0202, v := true })) = some (true, 0x0203, false) := by
  decide

-- V44.15: `BCC +2`.
theorem test_bcc : target (exec (.bcc 2) (ramState [] { cpuAt 0x90 2 with pc := 0x0202 })) = some (true, 0x0204, false) := by
  decide

-- V44.12: `BCS -2` at $C0FE: the next instruction is on the page after.
theorem test_bcs : target (exec (.bcs 0xFE) (ramState [] { cpuAt 0xB0 2 with pc := 0xC100, c := true })) = some (true, 0xC0FE, true) := by
  decide

-- V44.7: `BNE` with Z = 1.
theorem test_bne : cpuSeen (exec (.bne 0x10) (ramState [] { cpuAt 0xD0 2 with pc := 0x0202, z := true }))
    = some { cpuAt 0xD0 1 with pc := 0x0202, z := true, seq := .boundary } := by decide

-- V44.9: `BEQ +$7F` at $02F0: T4 corrects the high byte.
theorem test_beq : target (exec (.beq 0x7F) (ramState [] { cpuAt 0xF0 2 with pc := 0x02F2, z := true })) = some (true, 0x0371, true)
    ∧ pcSeen (exec (.beq 0x7F) (ramState [] { cpuAt 0xF0 3 with pc := 0x02F2, ea := 0x0371, crossed := true })) = some 0x0271
    := by decide

-- V45.1 to V45.4, R310, R313, R314.
theorem test_clc : seen (exec .clc (ramState [] { cpuAt 0x18 2 with c := true, n := true })) = some (0, 0, 0, 0xFD, 0xB0) := by
  decide

theorem test_sec : seen (exec .sec (ramState [] (cpuAt 0x38 2))) = some (0, 0, 0, 0xFD, 0x31) := by decide

-- R406: the poll of CLI sees the I from before it.
theorem test_cli : cpuSeen (exec .cli (ramState [] { cpuAt 0x58 2 with i := true, irqLatch := true }))
    = some { cpuAt 0x58 1 with irqLatch := true, seq := .boundary } := by decide

-- R406: and so does that of SEI.
theorem test_sei : cpuSeen (exec .sei (ramState [] { cpuAt 0x78 2 with irqLatch := true }))
    = some { cpuAt 0x78 1 with i := true, irqLatch := true, pollIrq := true, seq := .boundary } := by decide

theorem test_cld : seen (exec .cld (ramState [] { cpuAt 0xD8 2 with d := true })) = some (0, 0, 0, 0xFD, 0x30) := by decide

theorem test_sed : seen (exec .sed (ramState [] (cpuAt 0xF8 2))) = some (0, 0, 0, 0xFD, 0x38) := by decide

theorem test_clv : seen (exec .clv (ramState [] { cpuAt 0xB8 2 with v := true })) = some (0, 0, 0, 0xFD, 0x30) := by decide

-- V45.5; R342: a NOP's read of a device register has its side effect.
theorem test_nop : cpuSeen (exec (.nop 0xEA .implied) (ramState [] { cpuAt 0xEA 2 with pc := 0x0201 }))
      = some { cpuAt 0xEA 1 with pc := 0x0201, seq := .boundary }
    ∧ exec (.nop 0x0C (.mem (.abs 0xDC0D))) (ioState [] (cpuAt 0x0C 4)) matches .next { cia1 := { icrData := 0, .. }, .. } := by
  decide

-- V46.4: T4 shifts $81 and sets C, T5 ORs.
theorem test_slo : seen (exec (.slo (.zp 0x10)) (ramState [] { cpuAt 0x07 5 with a := 1, data := 2, c := true }))
      = some (3, 0, 0, 0xFD, 0x31)
    ∧ ramSeen 0x10 (exec (.slo (.zp 0x10)) (ramState [] { cpuAt 0x07 4 with a := 1, data := 0x81 })) = some 0x81 := by decide

-- R322's example in T4 and T5.
theorem test_rla : (cpuSeen (exec (.rla (.zp 0x10)) (ramState [] { cpuAt 0x27 4 with a := 0xFF, c := true, data := 0x40 }))).map
      (fun c => (c.data, c.c)) = some (0x81, false)
    ∧ seen (exec (.rla (.zp 0x10)) (ramState [] { cpuAt 0x27 5 with a := 0xFF, data := 0x81 })) = some (0x81, 0, 0, 0xFD, 0xB0) := by
  decide

-- R323's example.
theorem test_sre : (cpuSeen (exec (.sre (.zp 0x10)) (ramState [] { cpuAt 0x47 4 with a := 0x0F, data := 3 }))).map
      (fun c => (c.data, c.c)) = some (1, true)
    ∧ seen (exec (.sre (.zp 0x10)) (ramState [] { cpuAt 0x47 5 with a := 0x0F, data := 1, c := true }))
      = some (0x0E, 0, 0, 0xFD, 0x31) := by decide

-- R324's example: the carry out of the rotate is added.
theorem test_rra : seen (exec (.rra (.zp 0x10)) (ramState [] { cpuAt 0x67 5 with a := 0x10, data := 1, c := true }))
    = some (0x12, 0, 0, 0xFD, 0x30) := by decide

-- V46.9 in T5.
theorem test_dcp : seen (exec (.dcp (.zp 0x10)) (ramState [] { cpuAt 0xC7 5 with a := 0xFF, data := 0xFF }))
    = some (0xFF, 0, 0, 0xFD, 0x33) := by decide

-- R326's example in T5.
theorem test_isc : seen (exec (.isc (.zp 0x10)) (ramState [] { cpuAt 0xE7 5 with a := 0x10, data := 0x10, c := true }))
    = some (0, 0, 0, 0xFD, 0x33) := by decide

-- V46.3.
theorem test_sax : ramSeen 0x10 (exec (.sax (.zp 0x10)) (ramState [] { cpuAt 0x87 3 with a := 0xF0, x := 0x3C })) = some 0x30 := by
  decide

-- V46.1.
theorem test_lax : seen (exec (.lax (.zp 0x10)) (ramState [(0x10, 0x80)] (cpuAt 0xA7 3))) = some (0x80, 0x80, 0, 0xFD, 0xB0) := by
  decide

-- V46.23 and V46.22, the constant being $EE.
theorem test_lxa : regsOf (lxaOp 0xEE 0x0F (cpuAt 0xAB 2)) = (0x0E, 0x0E, 0, 0xFD, 0x30) := by decide

theorem test_ane : regsOf (aneOp 0xEE 0xFF { cpuAt 0x8B 2 with x := 0xFF }) = (0xEE, 0xFF, 0, 0xFD, 0xB0) := by decide

-- V46.11, V46.12.
theorem test_anc : seen (exec (.anc 0x0B 0x80) (ramState [] { cpuAt 0x0B 2 with a := 0xFF })) = some (0x80, 0, 0, 0xFD, 0xB1) := by
  decide

theorem test_alr : seen (exec (.alr 3) (ramState [] { cpuAt 0x4B 2 with a := 0xFF })) = some (1, 0, 0, 0xFD, 0x31) := by decide

-- V46.15, V46.17.
theorem test_arr : seen (exec (.arr 0x40) (ramState [] { cpuAt 0x6B 2 with a := 0xFF })) = some (0x20, 0, 0, 0xFD, 0x70)
    ∧ seen (exec (.arr 0xFF) (ramState [] { cpuAt 0x6B 2 with a := 0xFF, c := true, d := true }))
      = some (0x55, 0, 0, 0xFD, 0xB9) := by decide

-- V46.19, V46.20.
theorem test_sbx : seen (exec (.sbx 0x10) (ramState [] { cpuAt 0xCB 2 with a := 0xFF, x := 0x0F }))
    = some (0xFF, 0xFF, 0, 0xFD, 0xB0) := by decide

theorem test_usbc : seen (exec (.usbc 1) (ramState [] { cpuAt 0xEB 2 with c := true })) = some (0xFF, 0, 0, 0xFD, 0xB0) := by decide

-- V46.36.
theorem test_jam : cpuSeen (exec (.jam 0x02) (ramState [] (cpuAt 0x02 2))) = some { cpuAt 0x02 2 with jammed := true } := by decide

-- V46.24: the crossing replaces the high byte; V46.29.
theorem test_sha : ramSeen 0x1310 (exec (.sha (.absY 0x12F0)) (ramState [] { cpuAt 0x9F 5 with y := 0x20, a := 0xFF, x := 0xFF }))
      = some 0x13
    ∧ ramSeen 0x8000 (exec (.sha (.indY 0x40)) (ramState [] { cpuAt 0x93 6 with base := 0x8000, a := 0xFF, x := 0xFF }))
      = some 0x81 := by decide

-- R338's example: `SHX $20F8,Y` crosses: the value $21 is also the high byte of the address.
theorem test_shx : ramSeen 0x2108 (exec (.shx (.absY 0x20F8)) (ramState [] { cpuAt 0x9E 5 with y := 0x10, x := 0xFF }))
    = some 0x21 := by decide

-- R339's example: `SHY $40F0,X` writes $01 at $0110.
theorem test_shy : ramSeen 0x110 (exec (.shy (.absX 0x40F0)) (ramState [] { cpuAt 0x9C 5 with y := 0x0F, x := 0x20 })) = some 1 := by
  decide

-- R340's example.
theorem test_tas : ramSeen 0x1000 (exec (.tas (.absY 0x1000)) (ramState [] { cpuAt 0x9B 5 with a := 0xF0, x := 0x3F })) = some 0x10
    ∧ seen (exec (.tas (.absY 0x1000)) (ramState [] { cpuAt 0x9B 5 with a := 0xF0, x := 0x3F }))
      = some (0xF0, 0x3F, 0, 0x30, 0x30) := by decide

-- R341's example.
theorem test_las : seen (exec (.las (.absY 0x1000)) (ramState [(0x1000, 0x3F)] { cpuAt 0xBB 5 with sp := 0xF3 }))
    = some (0x33, 0x33, 0, 0x33, 0x30) := by decide

/-! ## The machine around the instructions -/

-- R170, R500: a placed instruction is fetched by the next step.
theorem test_withFetchWord : pcSeen (step (State.reset.withFetchWord 8 0xEA)) = some 0x0201
    ∧ (cpuSeen (step (State.reset.withFetchWord 24 0x1234BF))).map Cpu.seq = some (.instr 0xBF) := by decide

-- VI.0: T5 of the IRQ sequence pushes P with B clear.
theorem test_irq_entry : ramSeen 0x1FB (cpuCycle (ramState [] { cpuAt 0 5 with seq := .irqSeq, sp := 0xFB })) = some 0x20 := by
  decide

-- VI.7: a pending NMI takes the vector of an IRQ sequence over.
theorem test_hijack : (cpuSeen (cpuCycle (ramState [] { cpuAt 0 5 with seq := .irqSeq, nmiPending := true }))).map Cpu.ea
    = some 0xFFFA := by decide

-- R50, R413: the poll that started a sequence stands through it, and after it the opcode is fetched all the same.
theorem test_poll_stands :
    (cpuSeen (cpuCycle (ramState [] { cpuAt 0 1 with seq := .boundary, pollIrq := true }))).map
      (fun c => (c.seq, c.pollIrq)) = some (.irqSeq, true)
    ∧ (cpuSeen (cpuCycle (ramState [] { cpuAt 0 7 with seq := .irqSeq, ea := 0xFFFE, pollIrq := true }))).map
      (fun c => (c.seq, c.pollIrq)) = some (.handler, true)
    ∧ (cpuSeen (cpuCycle (ramState [(0x200, 0xEA)] { cpuAt 0 1 with seq := .handler, pollIrq := true }))).map Cpu.seq
      = some (.instr 0xEA) := by decide

-- R333, R416, R505: a reset that the host applies ends a halt, in a cycle that would have been stolen, with its T1.
theorem test_reset_ends_halt : (cpuSeen (step { stolen with
    cpu := { cpuAt 0x02 2 with jammed := true }, inputs := [{ cycleQuiet with reset := true }] })).map
      (fun c => (c.jammed, c.seq, c.t)) = some (false, .resetSeq, 2) := by decide

-- R504, R509: at power-on the next CPU cycle is T1 of the reset sequence, so the machine is at no boundary.
theorem test_powerOn_no_boundary : ¬ AtBoundary State.powerOn ∧ ¬ AtFetch State.powerOn :=
  have h (n : NoResetAhead State.powerOn) : False := by
    have := (n 0 State.powerOn rfl (fun _ _ hj => absurd hj (Nat.not_lt_zero _))).2
    exact absurd this (by decide)
  ⟨fun b => h b.2, fun b => h b.2⟩

-- R9, R448: a set in which one sprite's window starts elsewhere.
theorem test_sprite_starts : (List.range 63).filter (fun c => vicStall
    { palParams with spriteWinStarts := { palParams.spriteWinStarts with s2 := 10 } }
    { vicReset with cyc := c, sprites := { vicReset.sprites with s2 := ⟨true, 3⟩ } }) = [10, 11, 12, 13, 14] := by decide

-- VV.5: `INC $D019`: the first write clears what was read.
theorem test_d019 : vicRead { vicReset with irqLatch := 0b0101, irqEnable := 0b0001 } 0x19 = 0xF5
    ∧ (vicWrite { vicReset with irqLatch := 0b0101, irqEnable := 0b0001 } 0x19 0xF5).irqLatch = 0 := by decide

-- R471, R472: an underflow sets its flag whatever the mask; IR needs the mask.
theorem test_timer : (ciaStep ciaQuiet { ciaReset with taCounter := 1, taLatch := 5, cra := 1 })
      = { ciaReset with taCounter := 5, taLatch := 5, cra := 1, icrData := 1 }
    ∧ ciaIr { ciaReset with icrData := 1 } = false := by decide

-- R430, R441: VV.7's sprite 0 window, cycles 54 to 58.
theorem test_sprite_window : (List.range 63).filter (fun c => vicStall palParams { vicReset with
    cyc := c, sprites := { vicReset.sprites with s0 := ⟨true, 3⟩ } }) = [54, 55, 56, 57, 58] := by decide

/-! ## Witnesses: the hypotheses of the statements can be met, clause by clause -/

/-- A state about to fetch at $0200 (R401). -/
def fetching (m : Memory) : State := ramState m { cpuAt 0 1 with seq := .boundary }

/-- A state with a cartridge's lines and the given map. -/
def withCart (m : Option (List CartRow)) : State :=
  { fetching [] with host := { heldDefault with game := false, cartMap := m } }

theorem wit_DecodeEncode : ∃ i : Instr, i.wf = true := ⟨.lda (.mem (.zpX 0xFF)), by decide⟩

theorem wit_EncodeDecode : (∃ bs i rest, decode bs = .instr i rest)
    ∧ (∃ (op : Byte) (bs : List Byte), bs.length + 1 < lengthOf op) :=
  ⟨⟨[0xA9, 0x80, 0xEA], .lda (.imm 0x80), [0xEA], by decide⟩, 0x4C, [0x34], by decide⟩

theorem wit_StepRunsDecoded_cycle :
    (∃ s : State, admitted (supplied s) = true ∧ stalls (supplied s) = false ∧ (supplied s).cpu.jammed = false
      ∧ s.cpu.seq = .boundary)
    ∧ (∃ s : State, admitted (supplied s) = true ∧ stalls (supplied s) = false ∧ (supplied s).cpu.jammed = false
      ∧ s.cpu.seq = .instr 0xAD ∧ fetchAt 0xAD s.cpu.t = some .second)
    ∧ (∃ s : State, admitted (supplied s) = true ∧ stalls (supplied s) = false ∧ (supplied s).cpu.jammed = false
      ∧ s.cpu.seq = .irqSeq) :=
  ⟨⟨fetching [(0x200, 0xEA)], by decide⟩, ⟨ramState [] (cpuAt 0xAD 3), by decide⟩,
    ramState [] { cpuAt 0 2 with seq := .irqSeq }, by decide⟩

theorem wit_StepRunsDecoded : ∃ (s : State) (op : Byte) (i : Instr) (rest : List Byte),
    NoReset s ∧ admitted (supplied s) = true ∧ stalls (supplied s) = false ∧ s.cpu.jammed = false
      ∧ s.cpu.seq = .instr op ∧ decode [op, s.cpu.ptr, hi s.cpu.base] = .instr i rest ∧ fetchAt op s.cpu.t = none :=
  ⟨ramState [] { cpuAt 0xBD 4 with ptr := 0xF0, base := 0x12F0 }, 0xBD, .lda (.mem (.absX 0x12F0)), [], by decide⟩

theorem wit_FetchNext : FetchNext (fetching []) ∧ FetchNext { fetching [] with cpu := { cpuAt 0 1 with
    seq := .handler, pollIrq := true } } ∧ ¬ FetchNext { fetching [] with cpu := { cpuAt 0 1 with
    seq := .boundary, pollIrq := true } } := by decide

theorem wit_FetchCycles :
    (∃ (s s1 : State) (op : Byte), FetchNext s ∧ busRead s.cpu.pc s = .next (op, s1) ∧ (rowOf op).1 ≠ .jam)
    ∧ (∃ (s s1 : State) (op b : Byte), s.cpu.seq = .instr op ∧ fetchAt op s.cpu.t = some .first
      ∧ operatesOnFetch op s.cpu.t = false ∧ busRead s.cpu.pc s = .next (b, s1))
    ∧ (∃ (s s1 : State) (op b : Byte), s.cpu.seq = .instr op ∧ fetchAt op s.cpu.t = some .second
      ∧ operatesOnFetch op s.cpu.t = false ∧ busRead s.cpu.pc s = .next (b, s1))
    ∧ (∃ (s s1 : State) (op b : Byte) (i : Instr) (rest : List Byte), s.cpu.seq = .instr op
      ∧ fetchAt op s.cpu.t = some .first ∧ operatesOnFetch op s.cpu.t = true
      ∧ busRead s.cpu.pc (poll s) = .next (b, s1) ∧ decode [op, b, 0] = .instr i rest)
    ∧ (∃ (s s1 : State) (op b : Byte) (i : Instr) (rest : List Byte), s.cpu.seq = .instr op
      ∧ fetchAt op s.cpu.t = some .second ∧ operatesOnFetch op s.cpu.t = true
      ∧ busRead s.cpu.pc (poll s) = .next (b, s1) ∧ decode [op, s.cpu.ptr, b] = .instr i rest) :=
  ⟨⟨fetching [(0x200, 0xEA)], _, 0xEA, by decide, rfl, by decide⟩,
    ⟨ramState [(0x200, 0x10)] (cpuAt 0xA5 2), _, 0xA5, 0x10, rfl, by decide, by decide, rfl⟩,
    ⟨ramState [(0x200, 0x12)] (cpuAt 0xAD 3), _, 0xAD, 0x12, rfl, by decide, by decide, rfl⟩,
    ⟨ramState [(0x200, 0x80)] (cpuAt 0xA9 2), _, 0xA9, 0x80, .lda (.imm 0x80), [0], rfl, by decide, by decide, rfl,
      by decide⟩,
    ⟨ramState [(0x200, 0x12)] { cpuAt 0x20 6 with ptr := 0x34 }, _, 0x20, 0x12, .jsr 0x1234, [], rfl, by decide,
      by decide, rfl, by decide⟩⟩

theorem wit_StalledIdle : admitted (supplied stolen) = true ∧ stalls (supplied stolen) = true := by decide

theorem wit_JamHalts :
    (∃ (s s1 : State) (op : Byte), FetchNext s ∧ busRead s.cpu.pc s = .next (op, s1) ∧ op ∈ jamOpcodes)
    ∧ ∃ s : State, NoReset s ∧ admitted (supplied s) = true ∧ s.cpu.jammed = true :=
  ⟨⟨fetching [(0x200, 0xF2)], _, 0xF2, by decide, rfl, by decide⟩,
    ramState [] { cpuAt 0x02 2 with jammed := true }, by decide⟩

theorem wit_TableCycles : ∃ (s s1 : State) (op : Byte), FetchNext s ∧ NoCartridge s
    ∧ busRead s.cpu.pc s = .next (op, s1) ∧ (rowOf op).1 ≠ .jam :=
  ⟨fetching [(0x200, 0xFE)], _, 0xFE, by decide, by decide, rfl, by decide⟩

theorem wit_StepAnswers : NoCartridge (supplied State.reset)
    ∧ (¬ NoCartridge (supplied (withCart none)) ∧ (supplied (withCart none)).host.cartMap = none)
    ∧ ∃ (s : State) (f : Fault), step s = .fault f :=
  ⟨by decide, by decide, withCart (some []), .noSource, rfl⟩

theorem wit_StepKeeps : ∃ s t : State, step s = .next t ∧ StorageOk s
    ∧ (PositionOk s ∧ ControlOk s.cia1 ∧ ControlOk s.cia2 ∧ SpritesOk s) ∧ SequencerOk s :=
  ⟨State.reset, _, rfl, by decide, by decide, ⟨rfl, rfl⟩⟩

theorem wit_StepConstants : ∃ t, step State.reset = .next t := ⟨_, rfl⟩

theorem wit_NmiPendingCleared : ∃ s t : State, NoReset s ∧ step s = .next t ∧ s.cpu.nmiPending = true
    ∧ t.cpu.nmiPending = false :=
  ⟨ramState [] { cpuAt 0 6 with seq := .nmiSeq, ea := 0xFFFA, nmiPending := true }, _, by decide, rfl, rfl, by decide⟩

theorem wit_FlagWriters :
    (∃ s t : State, NoReset s ∧ step s = .next t ∧ (t.cpu.n ≠ s.cpu.n ∨ t.cpu.z ≠ s.cpu.z))
    ∧ (∃ s t : State, NoReset s ∧ step s = .next t ∧ t.cpu.c ≠ s.cpu.c)
    ∧ (∃ s t : State, NoReset s ∧ step s = .next t ∧ t.cpu.v ≠ s.cpu.v)
    ∧ (∃ s t : State, NoReset s ∧ step s = .next t ∧ t.cpu.d ≠ s.cpu.d)
    ∧ (∃ s t : State, NoReset s ∧ step s = .next t ∧ t.cpu.i ≠ s.cpu.i ∧ s.cpu.seq = .instr 0x58)
    ∧ (∃ s t : State, NoReset s ∧ step s = .next t ∧ t.cpu.i ≠ s.cpu.i ∧ s.cpu.seq = .irqSeq)
    ∧ (∃ s t : State, NoReset s ∧ step s = .next t ∧ stalls (supplied s) = true ∧ s.cpu.seq = .instr 0x38) :=
  ⟨⟨ramState [] { cpuAt 0xE8 2 with x := 0x7F }, _, by decide, rfl, by decide⟩,
    ⟨ramState [] (cpuAt 0x38 2), _, by decide, rfl, by decide⟩,
    ⟨ramState [] { cpuAt 0xB8 2 with v := true }, _, by decide, rfl, by decide⟩,
    ⟨ramState [] (cpuAt 0xF8 2), _, by decide, rfl, by decide⟩,
    ⟨ramState [] { cpuAt 0x58 2 with i := true }, _, by decide, rfl, by decide, rfl⟩,
    ⟨ramState [] { cpuAt 0 6 with seq := .irqSeq }, _, by decide, rfl, by decide, rfl⟩,
    ⟨{ stolen with cpu := cpuAt 0x38 2 }, _, by decide, rfl, by decide, rfl⟩⟩

theorem wit_RegisterWriters :
    (∃ s t : State, NoReset s ∧ step s = .next t ∧ t.cpu.a ≠ s.cpu.a)
    ∧ (∃ s t : State, NoReset s ∧ step s = .next t ∧ t.cpu.x ≠ s.cpu.x)
    ∧ (∃ s t : State, NoReset s ∧ step s = .next t ∧ t.cpu.y ≠ s.cpu.y)
    ∧ (∃ s t : State, NoReset s ∧ step s = .next t ∧ t.cpu.sp ≠ s.cpu.sp ∧ s.cpu.seq = .instr 0x9A)
    ∧ (∃ s t : State, NoReset s ∧ step s = .next t ∧ t.cpu.sp ≠ s.cpu.sp ∧ s.cpu.seq = .nmiSeq)
    ∧ (∃ s t : State, NoReset s ∧ step s = .next t ∧ stalls (supplied s) = true) :=
  ⟨⟨ramState [] { cpuAt 0x8A 2 with x := 0x7F }, _, by decide, rfl, by decide⟩,
    ⟨ramState [] (cpuAt 0xE8 2), _, by decide, rfl, by decide⟩,
    ⟨ramState [] (cpuAt 0x88 2), _, by decide, rfl, by decide⟩,
    ⟨ramState [] (cpuAt 0x9A 2), _, by decide, rfl, by decide, rfl⟩,
    ⟨ramState [] { cpuAt 0 3 with seq := .nmiSeq }, _, by decide, rfl, by decide, rfl⟩,
    ⟨stolen, _, by decide, rfl, by decide⟩⟩

theorem wit_ResetSequence : (∃ s : State, NoCartridge s ∧ s.params.vecReset = 0xFFFC)
    ∧ (∃ s : State, NoCartridge s ∧ s.params.vecReset = 0xFFFF)
    ∧ (∃ s : State, (cycleIn s).reset = true ∧ s.cpu.resetPending = false ∧ admitted (supplied s) = true
      ∧ stalls s = true)
    ∧ (∃ s : State, (cycleIn s).reset = false ∧ s.cpu.resetPending = true ∧ admitted (supplied s) = true)
    ∧ ∃ s : State, NoReset s :=
  ⟨⟨stolen, by decide, rfl⟩, ⟨{ stolen with params := { palParams with vecReset := 0xFFFF } }, by decide, rfl⟩,
    ⟨{ stolen with inputs := [{ cycleQuiet with reset := true }] }, by decide⟩, ⟨State.powerOn, by decide⟩,
    State.reset, by decide⟩

theorem wit_Addressing : (∃ (c : Cpu) (l h : Byte), c.base = cat h l)
    ∧ (∃ (m : Mem) (c : Cpu), hasFixup m = true ∧ crosses m c = false)
    ∧ (∃ (m : Mem) (c : Cpu), hasFixup m = true ∧ crosses m c = true) :=
  ⟨⟨{ cpuAt 0xB1 5 with base := 0x12FF }, 0xFF, 0x12, by decide⟩,
    ⟨.absX 0x1200, { cpuAt 0xBD 4 with x := 0xFF }, by decide, by decide⟩,
    ⟨.absX 0x1201, { cpuAt 0xBD 4 with x := 0xFF }, by decide, by decide⟩⟩

theorem wit_LeadCycles :
    (∃ (m : Mem) (s : State), s.cpu.t < datumCycle m ∧ readsDatum m s = false)
    ∧ (∃ (b v : Byte) (s s1 : State), busRead (zext16 b) s = .next (v, s1))
    ∧ (∃ (w : Word) (v : Byte) (s s1 : State), busRead (partialAddr (.absX w) s.cpu) s = .next (v, s1))
    ∧ (∃ (w : Word) (v : Byte) (s s1 : State), busRead (partialAddr (.absY w) s.cpu) s = .next (v, s1))
    ∧ (∃ (b l h : Byte) (s s1 s2 : State), s.cpu.t = 4 ∧ busRead (zext16 (b + s.cpu.x)) s = .next (l, s1)
      ∧ busRead (zext16 (b + s.cpu.x + 1)) (nextCycle (mapCpu (fun c => { c with ea := zext16 l }) s1)) = .next (h, s2))
    ∧ (∃ (b l h : Byte) (s s1 s2 : State), s.cpu.t = 3 ∧ busRead (zext16 b) s = .next (l, s1)
      ∧ busRead (zext16 (b + 1)) (nextCycle (mapCpu (fun c => { c with base := zext16 l }) s1)) = .next (h, s2))
    ∧ (∃ (b v : Byte) (s s1 : State), s.cpu.t = 3 ∧ busRead (zext16 b) s = .next (v, s1))
    ∧ (∃ (b v : Byte) (s s1 : State), s.cpu.t = 5 ∧ busRead (partialAddr (.indY b) s.cpu) s = .next (v, s1)) :=
  ⟨⟨.absX 0x12F0, ramState [] { cpuAt 0xBD 4 with x := 0x20 }, by decide, by decide⟩,
    ⟨0xFF, 3, ramState [(0xFF, 3)] (cpuAt 0xB5 3), _, rfl⟩,
    ⟨0x12F0, 0, ramState [] { cpuAt 0xBD 4 with x := 0x20 }, _, rfl⟩,
    ⟨0x12F0, 0, ramState [] { cpuAt 0xB9 4 with y := 0x20 }, _, rfl⟩,
    ⟨0xFE, 0x34, 7, ramState [(0xFF, 0x34)] { cpuAt 0xA1 4 with x := 1 }, _, _, rfl, rfl, rfl⟩,
    ⟨0xFF, 0xF8, 7, ramState [(0xFF, 0xF8)] (cpuAt 0xB1 3), _, _, rfl, rfl, rfl⟩,
    ⟨0xFE, 3, ramState [(0xFE, 3)] (cpuAt 0xA1 3), _, rfl, rfl⟩,
    ⟨0x40, 5, ramState [(0x1208, 5)] { cpuAt 0xB1 5 with base := 0x12F8, y := 0x10 }, _, rfl, rfl⟩⟩

-- LoadsAnswer, AdcAnswer, SbcAnswer, CompareLogicAnswer, ImpliedAnswer, UnstableAnswer: a datum that is read.
theorem wit_reads :
    (∃ (m : Mem) (s s1 : State) (v : Byte), readsDatum m s = true ∧ busRead (effAddr m s.cpu) (poll s) = .next (v, s1)
      ∧ datumCycle m ≤ s.cpu.t)
    ∧ (∃ (m : Mem) (s s1 : State) (v : Byte), readsDatum m s = true ∧ busRead (effAddr m s.cpu) (poll s) = .next (v, s1)
      ∧ s.cpu.t < datumCycle m) :=
  ⟨⟨.indY 0x40, ramState [(0x1308, 5)] { cpuAt 0xB1 6 with base := 0x12F8, y := 0x10 }, _, 5, by decide, rfl, by decide⟩,
    ⟨.absX 0x1200, ramState [(0x12FF, 5)] { cpuAt 0xBD 4 with x := 0xFF }, _, 5, by decide, rfl, by decide⟩⟩

-- StoresAnswer.
theorem wit_StoresAnswer : ∃ (m : Mem) (s s1 : State) (v : Byte), datumCycle m ≤ s.cpu.t
    ∧ busWrite (effAddr m s.cpu) v (poll s) = .next s1 :=
  ⟨.absX 0x12F0, ramState [] { cpuAt 0x9D 5 with x := 0x20, a := 7 }, _, 7, by decide, rfl⟩

-- ImpliedAnswer, ShiftsAnswer on A.
theorem wit_implied : ∃ (s s1 : State) (v : Byte), busRead s.cpu.pc (poll s) = .next (v, s1) :=
  ⟨ramState [] (cpuAt 0xAA 2), _, 0, rfl⟩

-- StackAnswer, JumpsAnswer, RtiAnswer, the cycles of BRK in InterruptEntry: every access answers in its cycle.
theorem wit_stack (t : Nat) : ∃ s : State, s.cpu.t = t
    ∧ (∃ v s1, busRead s.cpu.pc s = .next (v, s1)) ∧ (∃ v s1, busRead s.cpu.pc (poll s) = .next (v, s1))
    ∧ (∃ v s1, busRead (stackAddr s.cpu.sp) s = .next (v, s1))
    ∧ (∃ v s1, busRead (stackAddr s.cpu.sp) (poll s) = .next (v, s1))
    ∧ (∀ v : Byte, ∃ s1, busWrite (stackAddr s.cpu.sp) v s = .next s1)
    ∧ (∀ v : Byte, ∃ s1, busWrite (stackAddr s.cpu.sp) v (poll s) = .next s1)
    ∧ (∃ v s1, busRead s.cpu.ea s = .next (v, s1)) ∧ (∃ v s1, busRead (s.cpu.ea + 1) s = .next (v, s1)) :=
  ⟨ramState [] { cpuAt 0x00 t with sp := 0, ea := 0xFFFE }, rfl, busRead_answers ⟨rfl, rfl⟩ _,
    busRead_answers ⟨rfl, rfl⟩ _, busRead_answers ⟨rfl, rfl⟩ _, busRead_answers ⟨rfl, rfl⟩ _,
    fun v => busWrite_answers ⟨rfl, rfl⟩ _ v, fun v => busWrite_answers ⟨rfl, rfl⟩ _ v, busRead_answers ⟨rfl, rfl⟩ _,
    busRead_answers ⟨rfl, rfl⟩ _⟩

theorem wit_JumpsAnswer : ∃ (w : Word) (s s1 s2 : State) (l h : Byte), busRead w s = .next (l, s1)
    ∧ busRead (cat (hi w) (lo w + 1)) (poll s) = .next (h, s2) :=
  ⟨0x10FF, ramState [(0x1000, 0x12), (0x10FF, 0x34)] (cpuAt 0x6C 5), _, _, 0x34, 0x12, rfl, rfl⟩

theorem wit_AdcAnswer :
    (∃ (v r : Byte) (c : Cpu), c.d = false ∧ r.toNat = (c.a.toNat + v.toNat + c.c.toNat) % 256)
    ∧ ∃ (v : Byte) (c : Cpu) (lo t u : Nat), c.d = true
      ∧ lo = (let l := c.a.toNat % 16 + v.toNat % 16 + c.c.toNat; if 10 ≤ l then (l + 6) % 16 + 16 else l)
      ∧ t = c.a.toNat / 16 * 16 + v.toNat / 16 * 16 + lo ∧ u = (if 0xA0 ≤ t then t + 0x60 else t) :=
  ⟨⟨0xFF, 0x7F, { cpuAt 0x69 2 with a := 0x80 }, rfl, by decide⟩,
    0x99, { cpuAt 0x69 2 with d := true, a := 0x99, c := true }, _, _, _, rfl, rfl, rfl, rfl⟩

theorem wit_SbcAnswer :
    (∃ (v r : Byte) (c : Cpu), c.d = false ∧ r.toNat = (c.a.toNat + 255 + c.c.toNat - v.toNat) % 256)
    ∧ ∃ (v : Byte) (c : Cpu) (lo t : Int), c.d = true
      ∧ lo = (let l : Int := (c.a.toNat % 16 : Nat) - (v.toNat % 16 : Nat) + c.c.toNat - 1
              if l < 0 then (l - 6) % 16 - 16 else l)
      ∧ t = (c.a.toNat / 16 * 16 : Nat) - (v.toNat / 16 * 16 : Nat) + lo :=
  ⟨⟨0x01, 0xFF, { cpuAt 0xE9 2 with c := true }, rfl, by decide⟩,
    0x01, { cpuAt 0xE9 2 with d := true, c := true }, _, _, rfl, rfl, rfl⟩

theorem wit_ArithmeticMeaning : (∃ c : Cpu, c.d = false)
    ∧ ∃ (v : Byte) (c : Cpu) (x y : Nat), c.d = true ∧ x < 100 ∧ y < 100 ∧ c.a.toNat = x / 10 * 16 + x % 10
      ∧ v.toNat = y / 10 * 16 + y % 10 :=
  ⟨⟨cpuAt 0x69 2, rfl⟩, 0x99, { cpuAt 0x69 2 with d := true, a := 0x05 }, 5, 99, by decide⟩

-- RmwAnswer, ShiftsAnswer on memory, CombinedAnswer: the three cycles.
theorem wit_rmw :
    (∃ (m : Mem) (s s1 : State) (v : Byte), s.cpu.t = datumCycle m ∧ busRead (effAddr m s.cpu) s = .next (v, s1))
    ∧ (∃ (m : Mem) (s s1 : State), s.cpu.t = datumCycle m + 1 ∧ busWrite (effAddr m s.cpu) s.cpu.data s = .next s1)
    ∧ (∃ (m : Mem) (s s1 : State), datumCycle m + 2 ≤ s.cpu.t
      ∧ busWrite (effAddr m s.cpu) s.cpu.data (poll s) = .next s1) :=
  ⟨⟨.zp 0x10, ramState [(0x10, 0x41)] (cpuAt 0x06 3), _, 0x41, by decide, rfl⟩,
    ⟨.zp 0x10, ramState [(0x10, 0x41)] { cpuAt 0x06 4 with data := 0x41 }, _, by decide, rfl⟩,
    ⟨.zp 0x10, ramState [(0x10, 0x41)] { cpuAt 0x06 5 with data := 0x82 }, _, by decide, rfl⟩⟩

theorem wit_BranchAnswer : (∃ s : State, s.cpu.t = 2 ∧ s.cpu.z = false)
    ∧ ∃ s : State, s.cpu.t = 2 ∧ s.cpu.z = true ∧ NoCartridge s :=
  ⟨⟨ramState [] (cpuAt 0xF0 2), rfl, rfl⟩, ramState [] { cpuAt 0xF0 2 with z := true }, rfl, rfl, by decide⟩

theorem wit_BoundaryDecides :
    (∃ (s s1 : State) (v : Byte), busRead s.cpu.pc s = .next (v, s1) ∧ s.cpu.seq = .boundary ∧ s.cpu.pollNmi = true)
    ∧ (∃ (s s1 : State) (v : Byte), busRead s.cpu.pc s = .next (v, s1) ∧ s.cpu.seq = .boundary ∧ s.cpu.pollNmi = false
      ∧ s.cpu.pollIrq = true)
    ∧ (∃ (s s1 : State) (v : Byte), busRead s.cpu.pc s = .next (v, s1) ∧ s.cpu.seq = .boundary ∧ s.cpu.pollNmi = false
      ∧ s.cpu.pollIrq = false ∧ (rowOf v).1 ≠ .jam)
    ∧ (∃ (s s1 : State) (v : Byte), busRead s.cpu.pc s = .next (v, s1) ∧ s.cpu.seq = .handler ∧ (rowOf v).1 ≠ .jam
      ∧ s.cpu.pollNmi = true) :=
  ⟨⟨ramState [] { cpuAt 0 1 with seq := .boundary, pollNmi := true, pollIrq := true }, _, 0, rfl, rfl, rfl⟩,
    ⟨ramState [] { cpuAt 0 1 with seq := .boundary, pollIrq := true }, _, 0, rfl, rfl, rfl, rfl⟩,
    ⟨fetching [(0x200, 0xEA)], _, 0xEA, rfl, rfl, rfl, rfl, by decide⟩,
    ⟨ramState [(0x200, 0xEA)] { cpuAt 0 1 with seq := .handler, pollNmi := true }, _, 0xEA, rfl, rfl, by decide, rfl⟩⟩

theorem wit_InterruptEntry :
    (∃ s : State, s.cpu.seq = .irqSeq ∧ s.cpu.t = 3 ∧ NoCartridge s)
    ∧ (∃ s : State, s.cpu.seq = .nmiSeq ∧ s.cpu.t = 3 ∧ NoCartridge s)
    ∧ (∃ s : State, s.cpu.seq = .instr 0x00 ∧ s.cpu.t = 3 ∧ NoCartridge s)
    ∧ (∃ (l h : Byte) (s s1 s2 : State), s.cpu.seq = .nmiSeq ∧ s.cpu.t = 6 ∧ busRead s.cpu.ea s = .next (l, s1)
      ∧ busRead (s.cpu.ea + 1) s1 = .next (h, s2))
    ∧ (∃ (s s1 : State) (v : Byte), s.cpu.seq = .irqSeq ∧ s.cpu.t = 2 ∧ busRead s.cpu.pc s = .next (v, s1))
    ∧ (∃ (s s1 : State) (v : Byte), s.cpu.seq = .nmiSeq ∧ s.cpu.t = 2 ∧ busRead s.cpu.pc s = .next (v, s1)) :=
  ⟨⟨ramState [] { cpuAt 0 3 with seq := .irqSeq, sp := 1 }, rfl, rfl, by decide⟩,
    ⟨ramState [] { cpuAt 0 3 with seq := .nmiSeq }, rfl, rfl, by decide⟩, ⟨ramState [] (cpuAt 0 3), rfl, rfl, by decide⟩,
    ⟨0, 0xC2, ramState [(0xFFFB, 0xC2)] { cpuAt 0 6 with seq := .nmiSeq, ea := 0xFFFA }, _, _, rfl, rfl, rfl, rfl⟩,
    ⟨ramState [] { cpuAt 0 2 with seq := .irqSeq }, _, 0, rfl, rfl, rfl⟩,
    ⟨ramState [] { cpuAt 0 2 with seq := .nmiSeq }, _, 0, rfl, rfl, rfl⟩⟩

theorem wit_PollRule :
    (∃ s t : State, SequencerOk s ∧ cpuCycle s = .next t ∧ s.cpu.seq = .instr 0xE8 ∧ Kind.of (rowOf 0xE8).1 ≠ .branch
      ∧ Kind.of (rowOf 0xE8).1 ≠ .brk ∧ t.cpu.seq = .boundary)
    ∧ (∃ s t : State, SequencerOk s ∧ cpuCycle s = .next t ∧ s.cpu.seq = .instr 0xD0
      ∧ Kind.of (rowOf 0xD0).1 = .branch ∧ s.cpu.t = 2)
    ∧ (∃ s t : State, SequencerOk s ∧ cpuCycle s = .next t ∧ s.cpu.seq = .instr 0xD0
      ∧ Kind.of (rowOf 0xD0).1 = .branch ∧ s.cpu.t = 3)
    ∧ (∃ s t : State, SequencerOk s ∧ cpuCycle s = .next t ∧ s.cpu.seq = .irqSeq)
    ∧ (∃ s t : State, SequencerOk s ∧ cpuCycle s = .next t ∧ s.cpu.seq = .boundary ∧ s.cpu.pollIrq = true)
    ∧ (∃ s t : State, SequencerOk s ∧ cpuCycle s = .next t ∧ s.cpu.seq = .handler ∧ s.cpu.pollIrq = true) :=
  ⟨⟨ramState [] (cpuAt 0xE8 2), _, by simp [SequencerOk, ramState, cpuAt]; decide, rfl, rfl, by decide, by decide, rfl⟩,
    ⟨ramState [] (cpuAt 0xD0 2), _, by simp [SequencerOk, ramState, cpuAt]; decide, rfl, rfl, by decide, rfl⟩,
    ⟨ramState [] (cpuAt 0xD0 3), _, by simp [SequencerOk, ramState, cpuAt]; decide, rfl, rfl, by decide, rfl⟩,
    ⟨ramState [] { cpuAt 0 2 with seq := .irqSeq }, _, ⟨rfl, by decide, by decide⟩, rfl, rfl⟩,
    ⟨ramState [] { cpuAt 0 1 with seq := .boundary, pollIrq := true }, _, ⟨rfl, rfl⟩, rfl, rfl, rfl⟩,
    ⟨ramState [] { cpuAt 0 1 with seq := .handler, pollIrq := true }, _, ⟨rfl, rfl⟩, rfl, rfl, rfl⟩⟩

theorem wit_LinesLatched : ∃ s t : State, step s = .next t ∧ t.cpu.nmiPrev = true ∧ s.cpu.nmiPrev = false :=
  ⟨{ State.reset with cia2 := { ciaReset with icrData := 1, icrMask := 1 } }, _, rfl, by decide, rfl⟩

theorem wit_UnstableAnswer :
    (∃ (m : Mem) (s s1 : State) (v : Byte) (e : Word), datumCycle m ≤ s.cpu.t ∧ v = s.cpu.x &&& (hi (baseOf m s.cpu) + 1)
      ∧ e = (if crosses m s.cpu then cat v (lo (effAddr m s.cpu)) else effAddr m s.cpu)
      ∧ busWrite e v (poll s) = .next s1 ∧ crosses m s.cpu = true)
    ∧ (∃ (m : Mem) (s s1 : State) (v : Byte) (e : Word), datumCycle m ≤ s.cpu.t ∧ v = s.cpu.y &&& (hi (baseOf m s.cpu) + 1)
      ∧ e = (if crosses m s.cpu then cat v (lo (effAddr m s.cpu)) else effAddr m s.cpu)
      ∧ busWrite e v (poll s) = .next s1 ∧ crosses m s.cpu = false) :=
  ⟨⟨.absY 0x20F8, ramState [] { cpuAt 0x9E 5 with y := 0x10, x := 0xFF }, _, _, _, by decide, rfl, rfl, rfl, by decide⟩,
    ⟨.absX 0x1200, ramState [] { cpuAt 0x9C 5 with x := 1, y := 0xFF }, _, _, _, by decide, rfl, rfl, rfl, by decide⟩⟩

theorem wit_ImmediateUndocumented : (∃ s : State, s.cpu.d = false) ∧ ∃ s : State, s.cpu.d = true :=
  ⟨⟨ramState [] (cpuAt 0x6B 2), rfl⟩, ramState [] { cpuAt 0x6B 2 with d := true }, rfl⟩

-- FrameRegisters, FrameReads, FrameStores, FrameRmw, FrameStack: the cycle answers, the storing one and one before it.
theorem wit_frames :
    (∃ s t : State, exec .tax s = .next t) ∧ (∃ s t : State, exec (.adc (.imm 1)) s = .next t)
    ∧ (∃ s t : State, exec (.anc 0x0B 1) s = .next t) ∧ (∃ s t : State, exec (.jmp (.ind 0x10FF)) s = .next t)
    ∧ (∃ s t : State, exec (.lda (.mem (.absX 0x12F0))) s = .next t)
    ∧ (∃ (s t : State) (m : Mem), exec (.sta m) s = .next t ∧ datumCycle m ≤ s.cpu.t)
    ∧ (∃ (s t : State) (m : Mem), exec (.sta m) s = .next t ∧ s.cpu.t < datumCycle m)
    ∧ (∃ (s t : State) (m : Mem), exec (.shx m) s = .next t ∧ datumCycle m ≤ s.cpu.t)
    ∧ (∃ (s t : State) (m : Mem), exec (.rra m) s = .next t ∧ datumCycle m < s.cpu.t)
    ∧ (∃ (s t : State) (m : Mem), exec (.rra m) s = .next t ∧ s.cpu.t ≤ datumCycle m)
    ∧ (∃ s t : State, exec .pha s = .next t ∧ 3 ≤ s.cpu.t) ∧ (∃ s t : State, exec .plp s = .next t)
    ∧ (∃ s t : State, exec (.jsr 0x1234) s = .next t ∧ s.cpu.t = 4) ∧ (∃ s t : State, exec .rti s = .next t)
    ∧ (∃ s t : State, exec .brk s = .next t ∧ s.cpu.t = 5) :=
  ⟨⟨ramState [] (cpuAt 0xAA 2), _, rfl⟩, ⟨ramState [] (cpuAt 0x69 2), _, rfl⟩, ⟨ramState [] (cpuAt 0x0B 2), _, rfl⟩,
    ⟨ramState [] (cpuAt 0x6C 5), _, rfl⟩, ⟨ramState [] { cpuAt 0xBD 4 with x := 0x20 }, _, rfl⟩,
    ⟨ramState [] (cpuAt 0x85 3), _, .zp 0x10, rfl, by decide⟩, ⟨ramState [] (cpuAt 0x9D 4), _, .absX 0x1234, rfl, by decide⟩,
    ⟨ramState [] (cpuAt 0x9E 5), _, .absY 0x1200, rfl, by decide⟩,
    ⟨ramState [] (cpuAt 0x67 5), _, .zp 0x10, rfl, by decide⟩, ⟨ramState [] (cpuAt 0x67 3), _, .zp 0x10, rfl, by decide⟩,
    ⟨ramState [] (cpuAt 0x48 3), _, rfl, by decide⟩, ⟨ramState [] (cpuAt 0x28 4), _, rfl⟩,
    ⟨ramState [] (cpuAt 0x20 4), _, rfl, rfl⟩, ⟨ramState [] (cpuAt 0x40 4), _, rfl⟩, ⟨ramState [] (cpuAt 0x00 5), _, rfl, rfl⟩⟩

theorem wit_BankDecode : ∃ (s : State) (L H K : Bool), NoCartridge s
    ∧ L = (if s.ddr.getLsbD 0 then s.port.getLsbD 0 else true) ∧ H = (if s.ddr.getLsbD 1 then s.port.getLsbD 1 else true)
    ∧ K = (if s.ddr.getLsbD 2 then s.port.getLsbD 2 else true) :=
  ⟨{ State.reset with ddr := 0x2F, port := 0x31 }, true, false, false, by decide⟩

theorem wit_PortRegisters : (∃ t, busWrite 0 0x2F State.reset = .next t) ∧ ∃ t, busWrite 1 0x37 State.reset = .next t :=
  ⟨⟨_, rfl⟩, _, rfl⟩

theorem wit_MemoryReadsBack :
    (∃ (s : State) (a : Word), NoCartridge s ∧ StorageOk s ∧ regionOf s .read a.toNat = .next ⟨.ram, a.toNat⟩)
    ∧ (∃ (s : State) (a : Word) (k : Nat), NoCartridge s ∧ StorageOk s ∧ regionOf s .read a.toNat = .next ⟨.romBasic, k⟩)
    ∧ (∃ (s : State) (a : Word) (k : Nat), NoCartridge s ∧ StorageOk s ∧ regionOf s .read a.toNat = .next ⟨.romKernal, k⟩)
    ∧ (∃ (s : State) (a : Word) (k : Nat), NoCartridge s ∧ StorageOk s ∧ regionOf s .read a.toNat = .next ⟨.romChar, k⟩) :=
  ⟨⟨ramState [(5, 1), (0xFFFF, 2)] (cpuAt 0 2), 0xFFFF, by decide, by decide, rfl⟩,
    ⟨State.reset, 0xBFFF, 0x1FFF, by decide, by decide, rfl⟩, ⟨State.reset, 0xE000, 0, by decide, by decide, rfl⟩,
    ⟨{ State.reset with ddr := 0x07, port := 0x03 }, 0xDFFF, 0xFFF, by decide, by decide, rfl⟩⟩

-- WindowRegisters, VicRegisters, IcrRegisters, TimerRegisters, PortPins: the I/O window, at its edges.
theorem wit_window : IoMapped State.reset
    ∧ (∃ a b : Word, a.toNat = 0xD800 ∧ b.toNat = 0xDBFF) ∧ (∃ a b : Word, a.toNat = 0xD400 ∧ b.toNat = 0xD7FF)
    ∧ (∃ a b : Word, a.toNat = 0xDE00 ∧ b.toNat = 0xDFFF)
    ∧ (∀ k, k < 64 → ∃ a : Word, 0xD000 ≤ a.toNat ∧ a.toNat < 0xD400 ∧ a.toNat % 64 = k)
    ∧ (∀ k, k < 16 → ∃ a : Word, 0xDC00 ≤ a.toNat ∧ a.toNat < 0xDD00 ∧ a.toNat % 16 = k)
    ∧ (∀ k, k < 16 → ∃ a : Word, 0xDD00 ≤ a.toNat ∧ a.toNat < 0xDE00 ∧ a.toNat % 16 = k) := by
  refine ⟨by decide, ⟨0xD800, 0xDBFF, by decide⟩, ⟨0xD400, 0xD7FF, by decide⟩, ⟨0xDE00, 0xDFFF, by decide⟩, ?_, ?_, ?_⟩
    <;> intro k hk
  · exact ⟨BitVec.ofNat 16 (0xD3C0 + k), by rw [BitVec.toNat_ofNat]; omega⟩
  · exact ⟨BitVec.ofNat 16 (0xDCF0 + k), by rw [BitVec.toNat_ofNat]; omega⟩
  · exact ⟨BitVec.ofNat 16 (0xDDF0 + k), by rw [BitVec.toNat_ofNat]; omega⟩

-- Plain cells at both ends of the map; wit_window has an address for every register.
theorem wit_VicRegisters : StorageOk State.reset ∧ (∀ off ∈ [0x00, 0x10, 0x15, 0x18, 0x1D, 0x20, 0x2E], off < 0x2F
    ∧ off ∉ [0x11, 0x12, 0x13, 0x14, 0x19, 0x1A, 0x1E, 0x1F]) := by decide

theorem wit_TimerRegisters : ∃ (s : State) (a : Word) (c : Cia) (put : Cia → State) (off : Nat), IoMapped s
    ∧ off = a.toNat % 16 ∧ 0xDD00 ≤ a.toNat ∧ a.toNat < 0xDE00 ∧ c = s.cia2
    ∧ put = (fun d => { s with cia2 := d }) ∧ 8 ≤ off ∧ off ≤ 0xC :=
  ⟨State.reset, 0xDDFC, _, _, _, by decide, rfl, by decide, by decide, rfl, rfl, by decide, by decide⟩

theorem wit_VicStages :
    (PositionOk State.reset ∧ ({ State.reset with vic := { vicReset with cmp := 312 } } : State).params.lines ≤ 312)
    ∧ (∃ (inp : CycleIn) (s : State) (x y : Byte), inp.pen = some (x, y) ∧ s.vic.lpSeen = false)
    ∧ (∃ inp : CycleIn, inp.pen = none) ∧ (∃ s : State, s.vic.lpSeen = true)
    ∧ (∃ s : State, s.vic.cyc = s.params.spriteCheckCycle ∧ (spriteAt s.vic.sprites 7).dma = false
      ∧ (Cells.read s.vic.cells 0x15).getLsbD 7 = true
      ∧ (Cells.read s.vic.cells (2 * 7 + 1)).toNat = s.vic.line.toNat % 256)
    ∧ (∃ s : State, (spriteAt s.vic.sprites 0).dma = true ∧ winPlace s.params s.vic 0 + 1 = s.params.spriteWinLen) :=
  ⟨by decide, ⟨{ cycleQuiet with pen := some (3, 4) }, State.reset, 3, 4, rfl, rfl⟩, ⟨cycleQuiet, rfl⟩,
    ⟨{ State.reset with vic := { vicReset with lpSeen := true } }, rfl⟩,
    ⟨{ State.reset with vic := { vicReset with cyc := 54, line := 0x101, cells := [(15, 1), (0x15, 0x80)] } }, by decide⟩,
    ⟨{ State.reset with vic := { vicReset with cyc := 58, sprites := { vicReset.sprites with s0 := ⟨true, 1⟩ } } },
      by decide⟩⟩

theorem wit_RasterAdvance :
    (∃ s t : State, NoReset s ∧ PositionOk s ∧ step s = .next t ∧ s.vic.cyc + 1 < s.params.cpl)
    ∧ (∃ s t : State, NoReset s ∧ PositionOk s ∧ step s = .next t ∧ s.vic.cyc + 1 = s.params.cpl
      ∧ s.vic.line.toNat + 1 < s.params.lines)
    ∧ (∃ s t : State, NoReset s ∧ PositionOk s ∧ step s = .next t ∧ s.vic.cyc + 1 = s.params.cpl
      ∧ s.vic.line.toNat + 1 = s.params.lines) :=
  ⟨⟨{ State.reset with vic := { vicReset with cyc := 61 } }, _, by decide, by decide, rfl, by decide⟩,
    ⟨{ State.reset with vic := { vicReset with cyc := 62, line := 310 } }, _, by decide, by decide, rfl, by decide, by decide⟩,
    ⟨{ State.reset with vic := { vicReset with cyc := 62, line := 311 } }, _, by decide, by decide, rfl, by decide, by decide⟩⟩

theorem wit_StallCounts_alone : 0 < palParams.cpl ∧ ∃ (v : Vic) (n : Nat), n < 8
    ∧ (∀ j, j < 8 → (spriteAt v.sprites j).dma = decide (j = n)) ∧ badline palParams v = false :=
  ⟨by decide, { vicReset with sprites := { vicReset.sprites with s3 := ⟨true, 21⟩ } }, 3, by decide, by decide, by decide⟩

-- R441: sprite 3 steals 60 to 62 and 0 to 1, sprite 7 steals 5 to 9.
theorem test_sprite_windows :
    (List.range 63).filter (fun c => vicStall palParams { vicReset with
      cyc := c, sprites := { vicReset.sprites with s3 := ⟨true, 3⟩ } }) = [0, 1, 60, 61, 62]
    ∧ (List.range 63).filter (fun c => vicStall palParams { vicReset with
      cyc := c, sprites := { vicReset.sprites with s7 := ⟨true, 3⟩ } }) = [5, 6, 7, 8, 9] := by decide

theorem wit_StallCounts :
    (∃ v : Vic, (∀ n, n < 8 → (spriteAt v.sprites n).dma = false) ∧ badline palParams v = true)
    ∧ (∃ v : Vic, (∀ n, n < 8 → (spriteAt v.sprites n).dma = false) ∧ badline palParams v = false)
    ∧ (∃ (v : Vic) (m n : Nat), m ≤ n ∧ n < 8 ∧ (∀ j, j < 8 → (spriteAt v.sprites j).dma = decide (m ≤ j ∧ j ≤ n))
      ∧ badline palParams v = false) :=
  ⟨⟨stolen.vic, by decide, by decide⟩, ⟨vicReset, by decide, by decide⟩,
    { vicReset with sprites := { vicReset.sprites with s6 := ⟨true, 21⟩, s7 := ⟨true, 42⟩ } }, 6, 7, by decide, by decide,
    by decide, by decide⟩

theorem wit_TimerRule : ∃ (inp : CiaIn) (c d : Cia) (aRuns aUnder bRuns bUnder : Bool), d = ciaStep inp c
    ∧ aRuns = (c.cra.getLsbD 0 && (!c.cra.getLsbD 5 || inp.cntEdge)) ∧ aUnder = (aRuns && decide (c.taCounter.toNat ≤ 1))
    ∧ bRuns = (c.crb.getLsbD 0 && (match c.crb.getLsbD 6, c.crb.getLsbD 5 with
      | false, false => true
      | false, true => inp.cntEdge
      | true, false => aUnder
      | true, true => aUnder && inp.cntLevel)) ∧ bUnder = (bRuns && decide (c.tbCounter.toNat ≤ 1)) ∧ bUnder = true :=
  ⟨ciaQuiet, { ciaReset with cra := 1, taCounter := 1, crb := 0x61, tbCounter := 1 }, _, true, true, true, true, rfl,
    by decide⟩

theorem wit_PortPins : ∃ (s : State) (a : Word) (drA drB : Nat → Bool), IoMapped s
    ∧ (∀ n, drA n = (s.cia1.pra.getLsbD n || !s.cia1.ddra.getLsbD n))
    ∧ (∀ n, drB n = (s.cia1.prb.getLsbD n || !s.cia1.ddrb.getLsbD n)) ∧ 0xDC00 ≤ a.toNat ∧ a.toNat < 0xDD00
    ∧ a.toNat % 16 = 0 ∧ s.host.keys ≠ [] :=
  ⟨{ State.reset with host := { heldDefault with keys := [(1, 2)] } }, 0xDC00, _, _, by decide, fun _ => rfl, fun _ => rfl,
    by decide⟩

theorem wit_TimerPeriod : ∃ (c : Cia) (k : Nat), c.cra.getLsbD 0 = true ∧ c.cra.getLsbD 5 = false ∧ c.taCounter = c.taLatch
    ∧ 1 ≤ c.taLatch.toNat ∧ c.icrData = 0 ∧ c.crb.getLsbD 0 = false ∧ k < c.taLatch.toNat ∧ c.cra.getLsbD 3 = false :=
  ⟨{ ciaReset with cra := 1 }, 0xFFFE, by decide⟩

theorem wit_TimerPeriod_oneShot : ∃ (c : Cia) (k : Nat), c.cra.getLsbD 0 = true ∧ c.cra.getLsbD 5 = false
    ∧ c.taCounter = c.taLatch ∧ 1 ≤ c.taLatch.toNat ∧ c.icrData = 0 ∧ c.crb.getLsbD 0 = false ∧ c.cra.getLsbD 3 = true
    ∧ c.taLatch.toNat ≤ k :=
  ⟨{ ciaReset with cra := 9, taCounter := 1, taLatch := 1 }, 1, by decide⟩

-- Two images that overlap: the first one's first byte is covered by no later image.
theorem wit_LoadRule : ∃ (p : Params) (im : Images) (s : State), loadMachine p im = .machine s
    ∧ im.ram = [] ++ (0xFFFE, [4, 5]) :: [(0xFFFF, [3])] ∧ ∀ q ∈ [((0xFFFF : Nat), [(3 : Byte)])],
      ¬ (q.1 ≤ 0xFFFE ∧ 0xFFFE < q.1 + q.2.length) :=
  ⟨palParams, ⟨List.replicate 8192 0, List.replicate 8192 1, List.replicate 4096 2, [(0xFFFE, [4, 5]), (0xFFFF, [3])]⟩,
    _, by
    unfold loadMachine
    rw [if_neg (fun h => h List.length_replicate), if_neg (fun h => h List.length_replicate),
      if_neg (fun h => h List.length_replicate), if_neg (by decide)], rfl, by decide⟩

end Sys2Proof.Tests
end

section
/-! SUPPORT. What one CPU cycle can do, said once for every template and every instruction: which registers and
flags it may write, where it stores, and how it moves the sequencer and the polls on. -/

namespace Sys2Proof.Machine

/-! ## Frames of the CPU -/

theorem Keeps.refl (ws : List Piece) (c : Cpu) : Keeps ws c c := by simp [Keeps]

/-- A frame with fewer exceptions is one with more. -/
theorem Keeps.mono {ws vs : List Piece} {c d : Cpu} (hsub : ws ⊆ vs) (h : Keeps ws c d) : Keeps vs c d := by
  obtain ⟨ha, hx, hy, hsp, hpc, hc, hz, hi, hd, hv, hn, hnmi, hjam, hrest⟩ := h
  exact ⟨fun k => ha (mt (@hsub _) k), fun k => hx (mt (@hsub _) k), fun k => hy (mt (@hsub _) k),
    fun k => hsp (mt (@hsub _) k), fun k => hpc (mt (@hsub _) k), fun k => hc (mt (@hsub _) k),
    fun k => hz (mt (@hsub _) k), fun k => hi (mt (@hsub _) k), fun k => hd (mt (@hsub _) k),
    fun k => hv (mt (@hsub _) k), fun k => hn (mt (@hsub _) k), fun k => hnmi (mt (@hsub _) k),
    fun k => hjam (mt (@hsub _) k), hrest⟩

theorem Keeps.trans {ws : List Piece} {c d e : Cpu} (h : Keeps ws c d) (h' : Keeps ws d e) : Keeps ws c e := by
  obtain ⟨ha, hx, hy, hsp, hpc, hc, hz, hi, hd, hv, hn, hnmi, hjam, hirq, hprev, hres⟩ := h
  obtain ⟨ha', hx', hy', hsp', hpc', hc', hz', hi', hd', hv', hn', hnmi', hjam', hirq', hprev', hres'⟩ := h'
  exact ⟨fun k => (ha' k).trans (ha k), fun k => (hx' k).trans (hx k), fun k => (hy' k).trans (hy k),
    fun k => (hsp' k).trans (hsp k), fun k => (hpc' k).trans (hpc k), fun k => (hc' k).trans (hc k),
    fun k => (hz' k).trans (hz k), fun k => (hi' k).trans (hi k), fun k => (hd' k).trans (hd k),
    fun k => (hv' k).trans (hv k), fun k => (hn' k).trans (hn k), fun k => (hnmi' k).trans (hnmi k),
    fun k => (hjam' k).trans (hjam k), hirq'.trans hirq, hprev'.trans hprev, hres'.trans hres⟩

/-- A change of the CPU that writes the named pieces alone and leaves the sequencer and the polls as they are; the
latches of R49 are free. -/
def Operates (ws : List Piece) (c d : Cpu) : Prop :=
  Keeps ws c d ∧ d.seq = c.seq ∧ d.t = c.t ∧ d.pollIrq = c.pollIrq ∧ d.pollNmi = c.pollNmi

theorem Operates.refl (ws : List Piece) (c : Cpu) : Operates ws c c := ⟨Keeps.refl ws c, rfl, rfl, rfl, rfl⟩

/-! ## Where a cycle stores -/

/-- A cycle stores at `a`, or nothing. -/
def Stores : Option Word → State → State → Prop
  | none, s, t => StoresNothing s t
  | some a, s, t => StoresAt a s t

theorem StoresNothing.refl (s : State) : StoresNothing s s := by simp [StoresNothing, SameFixed]

/-- A change of the CPU before the cycle's access does not show in what the cycle stores. -/
theorem stores_of_mapCpu {o : Option Word} {f : Cpu → Cpu} {s t : State} (h : Stores o (mapCpu f s) t) :
    Stores o s t := by
  cases o <;> exact h

/-- Nor does one after it. -/
theorem Stores.mapCpu {o : Option Word} {s t : State} (h : Stores o s t) (g : Cpu → Cpu) :
    Stores o s (mapCpu g t) := by
  cases o <;> exact h

/-- A write stores at its address (R83, R132). -/
theorem busWrite_storesAt {a : Word} {v : Byte} {s t : State} (h : busWrite a v s = .next t) :
    StoresAt a s t := by
  have hfix := busWrite_fixed h
  obtain ⟨⟨r, k⟩, hreg, rfl⟩ := busWrite_eq_next.1 h
  have hram (b : Nat) (hb : b ≠ a.toNat) :
      Cells.read (Cells.write s.ram a.toNat v) b = Cells.read s.ram b := Cells.read_write_other _ v hb
  cases r
  case port =>
    refine ⟨?_, fun hn => absurd hreg (hn k), ?_, ?_, ?_, ?_, ?_, ?_, hfix⟩ <;> simp only [targetWrite] <;> split
    case refine_1.isTrue | refine_1.isFalse => exact hram
    all_goals simp
  case color =>
    exact ⟨fun _ _ => rfl, fun _ => ⟨rfl, rfl⟩, rfl,
      fun j hj => Cells.read_write_other _ _ fun hjk => hj (hjk ▸ hreg),
      fun _ => rfl, fun _ => rfl, fun _ => rfl, fun _ => rfl, hfix⟩
  case vic =>
    exact ⟨fun _ _ => rfl, fun _ => ⟨rfl, rfl⟩, rfl, fun _ _ => rfl, fun hn => absurd hreg (hn k), fun _ => rfl,
      fun _ => rfl, fun _ => rfl, hfix⟩
  case cia1 =>
    exact ⟨fun _ _ => rfl, fun _ => ⟨rfl, rfl⟩, rfl, fun _ _ => rfl, fun _ => rfl, fun hn => absurd hreg (hn k),
      fun _ => rfl, fun _ => rfl, hfix⟩
  case cia2 =>
    exact ⟨fun _ _ => rfl, fun _ => ⟨rfl, rfl⟩, rfl, fun _ _ => rfl, fun _ => rfl, fun _ => rfl,
      fun hn => absurd hreg (hn k), fun _ => rfl, hfix⟩
  case sid =>
    exact ⟨fun _ _ => rfl, fun _ => ⟨rfl, rfl⟩, rfl, fun _ _ => rfl, fun _ => rfl, fun _ => rfl, fun _ => rfl,
      fun hn => absurd hreg (hn k), hfix⟩
  case io1 | io2 =>
    exact ⟨fun _ _ => rfl, fun _ => ⟨rfl, rfl⟩, rfl, fun _ _ => rfl, fun _ => rfl, fun _ => rfl, fun _ => rfl,
      fun _ => rfl, hfix⟩
  case ram | romBasic | romKernal | romChar =>
    exact ⟨hram, fun _ => ⟨rfl, rfl⟩, rfl, fun _ _ => rfl, fun _ => rfl, fun _ => rfl, fun _ => rfl, fun _ => rfl, hfix⟩

/-! ## Profiles -/

/-- What the cycles of a template have in common: the pieces they may write, the last cycle it has, the cycles in
which it may end having polled, and those in which it may end with no poll of its own (an operate cycle on a fetch,
T3 of a branch, the end of a sequence). -/
structure Profile where
  writes : List Piece
  last : Nat
  polls : Nat → Bool
  bare : Nat → Bool

/-- How a cycle moves the sequencer and the polls on. -/
inductive Progress (p : Profile) (c d : Cpu) : Prop where
  | goesOn (hlast : c.t < p.last) (hseq : d.seq = c.seq) (ht : d.t = c.t + 1) (hirq : d.pollIrq = c.pollIrq)
      (hnmi : d.pollNmi = c.pollNmi)
  | polled (hp : p.polls c.t = true) (hseq : d.seq = .boundary) (ht : d.t = 1)
      (hirq : d.pollIrq = (c.irqLatch && !c.i)) (hnmi : d.pollNmi = c.nmiPending)
  | bare (hb : p.bare c.t = true) (hseq : d.seq = .boundary ∨ d.seq = .handler) (ht : d.t = 1)
      (hirq : d.pollIrq = c.pollIrq) (hnmi : d.pollNmi = c.pollNmi)
  | halts (hjam : d.jammed = true) (hseq : d.seq = c.seq) (hw : Piece.jammed ∈ p.writes) (hirq : d.pollIrq = c.pollIrq)
      (hnmi : d.pollNmi = c.pollNmi)

/-- A cycle of a template that stores at `o`. -/
structure Cycle (p : Profile) (o : Option Word) (s t : State) : Prop where
  keeps : Keeps p.writes s.cpu t.cpu
  stores : Stores o s t
  progress : Progress p s.cpu t.cpu

section Templates

variable {p : Profile} {s s1 t : State} {o : Option Word}

/-- After an access that leaves the CPU alone, a change of the CPU and the move to the next cycle. -/
theorem cycle_nextCycle {g : Cpu → Cpu} (hcpu : s1.cpu = s.cpu) (hst : Stores o s s1) (hlast : s.cpu.t < p.last)
    (hg : Operates p.writes s.cpu (g s.cpu)) : Cycle p o s (nextCycle (mapCpu g s1)) := by
  obtain ⟨hk, hseq, ht, hirq, hnmi⟩ := hg
  have hd : (nextCycle (mapCpu g s1)).cpu = { g s.cpu with t := (g s.cpu).t + 1 } := by simp [hcpu]
  refine ⟨?_, (hst.mapCpu g).mapCpu _, ?_⟩ <;> rw [hd]
  · exact hk
  · exact .goesOn hlast hseq (congrArg (· + 1) ht) hirq hnmi

/-- The same, ending with no poll at a boundary. -/
theorem cycle_endInstr {g : Cpu → Cpu} (hcpu : s1.cpu = s.cpu) (hst : Stores o s s1) (hb : p.bare s.cpu.t = true)
    (hg : Operates p.writes s.cpu (g s.cpu)) : Cycle p o s (endInstr (mapCpu g s1)) := by
  obtain ⟨hk, -, -, hirq, hnmi⟩ := hg
  have hd : (endInstr (mapCpu g s1)).cpu = { g s.cpu with seq := .boundary, t := 1 } := by simp [hcpu]
  refine ⟨?_, (hst.mapCpu g).mapCpu _, ?_⟩ <;> rw [hd]
  · exact hk
  · exact .bare hb (.inl rfl) rfl hirq hnmi

/-- The same, ending a sequence. -/
theorem cycle_enterHandler {g : Cpu → Cpu} (hcpu : s1.cpu = s.cpu) (hst : Stores o s s1)
    (hb : p.bare s.cpu.t = true) (hg : Operates p.writes s.cpu (g s.cpu)) :
    Cycle p o s (enterHandler (mapCpu g s1)) := by
  obtain ⟨hk, -, -, hirq, hnmi⟩ := hg
  have hd : (enterHandler (mapCpu g s1)).cpu = { g s.cpu with seq := .handler, t := 1 } := by simp [hcpu]
  refine ⟨?_, (hst.mapCpu g).mapCpu _, ?_⟩ <;> rw [hd]
  · exact hk
  · exact .bare hb (.inr rfl) rfl hirq hnmi

/-- The last cycle of an instruction that polls first. -/
theorem cycle_poll_endInstr {g : Cpu → Cpu} (hcpu : s1.cpu = (poll s).cpu) (hst : Stores o (poll s) s1)
    (hp : p.polls s.cpu.t = true) (hg : ∀ c, Operates p.writes c (g c)) :
    Cycle p o s (endInstr (mapCpu g s1)) := by
  obtain ⟨hk, -, -, hirq, hnmi⟩ := hg (poll s).cpu
  have hd : (endInstr (mapCpu g s1)).cpu = { g (poll s).cpu with seq := .boundary, t := 1 } := by
    rw [endInstr_cpu, mapCpu_cpu, hcpu]
  refine ⟨?_, stores_of_mapCpu ((hst.mapCpu g).mapCpu _), ?_⟩ <;> rw [hd]
  · exact hk
  · exact .polled hp rfl rfl hirq hnmi

theorem readCycle_nextCycle {a : Word} {g : Byte → Cpu → Cpu} (hlast : s.cpu.t < p.last)
    (hg : ∀ v, Operates p.writes s.cpu (g v s.cpu))
    (h : readCycle a (fun v s' => nextCycle (mapCpu (g v) s')) s = .next t) : Cycle p none s t := by
  obtain ⟨v, s1, h1, rfl⟩ := readCycle_eq_next.1 h
  exact cycle_nextCycle (busRead_frame h1).1 (busRead_storesNothing h1) hlast (hg v)

theorem readCycle_endInstr {a : Word} {g : Byte → Cpu → Cpu} (hb : p.bare s.cpu.t = true)
    (hg : ∀ v, Operates p.writes s.cpu (g v s.cpu))
    (h : readCycle a (fun v s' => endInstr (mapCpu (g v) s')) s = .next t) : Cycle p none s t := by
  obtain ⟨v, s1, h1, rfl⟩ := readCycle_eq_next.1 h
  exact cycle_endInstr (busRead_frame h1).1 (busRead_storesNothing h1) hb (hg v)

theorem readCycle_enterHandler {a : Word} {g : Byte → Cpu → Cpu} (hb : p.bare s.cpu.t = true)
    (hg : ∀ v, Operates p.writes s.cpu (g v s.cpu))
    (h : readCycle a (fun v s' => enterHandler (mapCpu (g v) s')) s = .next t) : Cycle p none s t := by
  obtain ⟨v, s1, h1, rfl⟩ := readCycle_eq_next.1 h
  exact cycle_enterHandler (busRead_frame h1).1 (busRead_storesNothing h1) hb (hg v)

theorem dummyRead_cycle {a : Word} (hlast : s.cpu.t < p.last) (h : dummyRead a s = .next t) :
    Cycle p none s t := by
  obtain ⟨v, s1, h1, rfl⟩ := dummyRead_eq_next.1 h
  exact cycle_nextCycle (g := id) (busRead_frame h1).1 (busRead_storesNothing h1) hlast (Operates.refl _ _)

theorem lastRead_cycle {a : Word} {op : Byte → Cpu → Cpu} (hp : p.polls s.cpu.t = true)
    (hop : ∀ v c, Operates p.writes c (op v c)) (h : lastRead a op s = .next t) : Cycle p none s t := by
  obtain ⟨v, s1, h1, rfl⟩ := lastRead_eq_next.1 h
  exact cycle_poll_endInstr (busRead_frame h1).1 (busRead_storesNothing h1) hp (hop v)

theorem lastWrite_cycle {a : Word} {v : Byte} {op : Cpu → Cpu} (hp : p.polls s.cpu.t = true)
    (hop : ∀ c, Operates p.writes c (op c)) (h : lastWrite a v op s = .next t) : Cycle p (some a) s t := by
  obtain ⟨s1, h1, rfl⟩ := lastWrite_eq_next.1 h
  exact cycle_poll_endInstr (busWrite_frame h1).1 (busWrite_storesAt h1) hp hop

theorem writeCycle_nextCycle {a : Word} {v : Byte} {g : Cpu → Cpu} (hlast : s.cpu.t < p.last)
    (hg : Operates p.writes s.cpu (g s.cpu))
    (h : writeCycle a v (fun s' => nextCycle (mapCpu g s')) s = .next t) : Cycle p (some a) s t := by
  obtain ⟨s1, h1, rfl⟩ := writeCycle_eq_next.1 h
  exact cycle_nextCycle (busWrite_frame h1).1 (busWrite_storesAt h1) hlast hg

theorem decSp_operates {ws : List Piece} (hsp : Piece.sp ∈ ws) (c : Cpu) : Operates ws c (decSp c) := by
  simp [Operates, Keeps, hsp]

theorem incSp_operates {ws : List Piece} (hsp : Piece.sp ∈ ws) (c : Cpu) : Operates ws c (incSp c) := by
  simp [Operates, Keeps, hsp]

theorem pushCycle_nextCycle {v : Byte} (hlast : s.cpu.t < p.last) (hsp : Piece.sp ∈ p.writes)
    (h : pushCycle v nextCycle s = .next t) : Cycle p (some (stackAddr s.cpu.sp)) s t :=
  writeCycle_nextCycle hlast (decSp_operates hsp _) h

/-- The last cycle of a push (R176). -/
theorem pushCycle_poll_cycle {v : Byte} (hp : p.polls s.cpu.t = true) (hsp : Piece.sp ∈ p.writes)
    (h : pushCycle v endInstr (poll s) = .next t) : Cycle p (some (stackAddr s.cpu.sp)) s t := by
  obtain ⟨s1, h1, rfl⟩ := pushCycle_eq_next.1 h
  exact cycle_poll_endInstr (busWrite_frame h1).1 (busWrite_storesAt h1) hp (decSp_operates hsp)

theorem stackBump_cycle (hlast : s.cpu.t < p.last) (hsp : Piece.sp ∈ p.writes) (h : stackBump s = .next t) :
    Cycle p none s t :=
  readCycle_nextCycle (g := fun _ => incSp) hlast (fun _ => incSp_operates hsp _) h

/-- A cycle with no access of its own. -/
theorem endInstr_cycle {g : Cpu → Cpu} (hst : Stores o s s1) (hcpu : s1.cpu = s.cpu) (hb : p.bare s.cpu.t = true)
    (hg : ∀ c, Operates p.writes c (g c)) (h : (.next (endInstr (mapCpu g s1)) : Answer State) = .next t) :
    Cycle p o s t := by
  cases h
  exact cycle_endInstr hcpu hst hb (hg _)

end Templates

end Sys2Proof.Machine
end

section
/-! SUPPORT. The operations of files 40 to 46 as changes of the CPU: which pieces each of them writes. -/

namespace Sys2Proof.Machine

variable (v : Byte) (c : Cpu)

theorem loadA_operates : Operates [.a, .n, .z] c (loadA v c) := by simp [Operates, Keeps]
theorem loadX_operates : Operates [.x, .n, .z] c (loadX v c) := by simp [Operates, Keeps]
theorem loadY_operates : Operates [.y, .n, .z] c (loadY v c) := by simp [Operates, Keeps]
theorem compareOp_operates (r : Byte) : Operates [.n, .z, .c] c (compareOp r v c) := by
  simp [Operates, Keeps, compareOp]
theorem bitOp_operates : Operates [.n, .v, .z] c (bitOp v c) := by simp [Operates, Keeps, bitOp]
theorem lasOp_operates : Operates [.a, .x, .sp, .n, .z] c (lasOp v c) := by simp [Operates, Keeps, lasOp]
theorem lxaOp_operates (magic : Byte) : Operates [.a, .x, .n, .z] c (lxaOp magic v c) := by
  simp [Operates, Keeps, lxaOp]
theorem aneOp_operates (magic : Byte) : Operates [.a, .n, .z] c (aneOp magic v c) := by
  simp [Operates, Keeps, aneOp]
theorem ancOp_operates : Operates [.a, .n, .z, .c] c (ancOp v c) := by simp [Operates, Keeps, ancOp]
theorem alrOp_operates : Operates [.a, .n, .z, .c] c (alrOp v c) := by simp [Operates, Keeps, alrOp]
theorem sbxOp_operates : Operates [.x, .n, .z, .c] c (sbxOp v c) := by simp [Operates, Keeps, sbxOp]

theorem arrOp_operates : Operates [.a, .n, .z, .c, .v] c (arrOp v c) := by
  unfold arrOp
  split <;> simp [Operates, Keeps, arrDecimal, arrBinary]

theorem adcOp_operates : Operates [.a, .n, .z, .c, .v] c (adcOp v c) := by
  unfold adcOp
  split <;> simp [Operates, Keeps, adcDecimal, adcBinary]

theorem sbcOp_operates : Operates [.a, .n, .z, .c, .v] c (sbcOp v c) := by
  unfold sbcOp
  split <;> simp [Operates, Keeps, sbcBinary]

theorem unpackP_operates : Operates [.sp, .n, .v, .d, .i, .z, .c] c (unpackP v c) := by simp [Operates, Keeps]

theorem shifted_operates (f : Byte → Bool → Byte × Bool) : Operates [.n, .z, .c] c (shifted f v c).2 := by
  simp [Operates, Keeps, shifted]

end Sys2Proof.Machine
end

section
/-! SUPPORT. The templates of R172 to R183 and the sequences of R409, R414 and R180: each of their cycles has the
template's profile. -/

namespace Sys2Proof.Machine

/-- A read (R173). -/
def readProfile (ws : List Piece) (m : Mem) : Profile := ⟨ws, datumCycle m, fun _ => true, fun _ => false⟩

/-- A write (R175). -/
def writeProfile (ws : List Piece) (m : Mem) : Profile := ⟨ws, datumCycle m, fun _ => true, fun _ => false⟩

/-- A read-modify-write (R174). -/
def rmwProfile (ws : List Piece) (m : Mem) : Profile := ⟨ws, datumCycle m + 2, fun _ => true, fun _ => false⟩

/-- An implied or accumulator instruction (R172). -/
def impliedProfile (ws : List Piece) : Profile := ⟨ws, 2, fun _ => true, fun _ => false⟩

/-- An immediate instruction: it operates on its fetch (R172). -/
def immediateProfile (ws : List Piece) : Profile := ⟨ws, 2, fun _ => false, fun _ => true⟩

/-- An instruction with a source. -/
def srcProfile (ws : List Piece) : Src → Profile
  | .imm _ => immediateProfile ws
  | .mem m => readProfile ws m

/-- A shift or rotate. -/
def dstProfile : Dst → Profile
  | .acc => impliedProfile [.a, .n, .z, .c]
  | .mem m => rmwProfile [.n, .z, .c] m

/-- A NOP (R317, R342). -/
def nopProfile : NopArg → Profile
  | .implied => impliedProfile []
  | .imm _ => immediateProfile []
  | .mem m => readProfile [] m

/-- A branch (R183): it polls in T4, and in T2 with its fetch. -/
def branchProfile : Profile := ⟨[.pc], 4, fun t => decide (4 ≤ t), fun t => decide (t ≤ 3)⟩

/-- A push, a pull or a return of `last` cycles (R176, R178, R179). -/
def stackProfile (ws : List Piece) (last : Nat) : Profile := ⟨ws, last, fun _ => true, fun _ => false⟩

/-- JMP (R181, R182). -/
def jumpProfile : JumpTo → Profile
  | .abs _ => ⟨[.pc], 3, fun _ => false, fun _ => true⟩
  | .ind _ => ⟨[.pc], 5, fun _ => true, fun _ => false⟩

/-- JSR (R177): it ends on the fetch of its last byte. -/
def jsrProfile : Profile := ⟨[.sp, .pc], 6, fun _ => false, fun t => !(t == 3 || t == 4 || t == 5)⟩

/-- BRK, the IRQ and the NMI sequence (R180, R409): no poll (R413). -/
def entryProfile : Profile := ⟨[.sp, .pc, .i, .nmiPending], 7, fun _ => false, fun _ => true⟩

/-- The reset sequence (R414). -/
def resetProfile : Profile := ⟨[.sp, .pc, .i], 7, fun _ => false, fun _ => true⟩

/-- JAM (R186). -/
def jamProfile : Profile := ⟨[.jammed], 1, fun _ => false, fun _ => false⟩

/-- Where the interrupt entry stores (R180): T3 to T5 push. -/
def entryStore (c : Cpu) : Option Word := if 3 ≤ c.t ∧ c.t ≤ 5 then some (stackAddr c.sp) else none

section Templates

variable {p : Profile} {s t : State}

theorem fixupCycle_cycle {m : Mem} (hlast : s.cpu.t < p.last) (h : fixupCycle m s = .next t) : Cycle p none s t :=
  readCycle_nextCycle (g := fun _ c => { c with ea := effAddr m c, crossed := crosses m c }) hlast
    (fun _ => Operates.refl _ _) h

/-- The lead cycles of every form (R173): latches alone. -/
theorem leadCycle_cycle {m : Mem} (hlast : s.cpu.t < p.last) (h : leadCycle m s = .next t) : Cycle p none s t := by
  have hlatch {a : Word} {g : Byte → Cpu → Cpu} (hg : ∀ v, Operates p.writes s.cpu (g v s.cpu))
      (h : readCycle a (fun v s' => nextCycle (mapCpu (g v) s')) s = .next t) : Cycle p none s t :=
    readCycle_nextCycle hlast hg h
  cases m <;> simp only [leadCycle] at h
  case zp | abs =>
    cases h
    exact cycle_nextCycle (g := id) rfl (StoresNothing.refl s) hlast (Operates.refl _ _)
  case zpX | zpY => exact dummyRead_cycle hlast h
  case absX | absY => exact fixupCycle_cycle hlast h
  case indX b =>
    split at h
    · exact dummyRead_cycle hlast h
    · exact hlatch (g := fun v c => { c with ea := zext16 v }) (fun _ => Operates.refl _ _) h
    · exact hlatch (g := fun v c => { c with ea := cat v (lo c.ea) }) (fun _ => Operates.refl _ _) h
  case indY b =>
    split at h
    · exact hlatch (g := fun v c => { c with base := zext16 v }) (fun _ => Operates.refl _ _) h
    · exact hlatch (g := fun v c => { c with base := cat v (lo c.base) }) (fun _ => Operates.refl _ _) h
    · exact fixupCycle_cycle hlast h

variable {ws : List Piece} {m : Mem}

theorem readMem_cycle {op : Byte → Cpu → Cpu} (hop : ∀ v c, Operates ws c (op v c))
    (h : readMem m op s = .next t) : Cycle (readProfile ws m) none s t := by
  unfold readMem at h
  split at h
  · exact lastRead_cycle rfl hop h
  next hd =>
    have hlast : s.cpu.t < datumCycle m := by
      simp only [readsDatum, Bool.or_eq_true, decide_eq_true_eq, not_or] at hd
      omega
    exact leadCycle_cycle hlast h

theorem writeMem_cycle {value : Cpu → Byte} (h : writeMem m value s = .next t) :
    Cycle (writeProfile ws m) (if datumCycle m ≤ s.cpu.t then some (effAddr m s.cpu) else none) s t := by
  unfold writeMem at h
  split_ifs at h ⊢
  · exact lastWrite_cycle rfl (fun c => Operates.refl _ c) h
  next hd => exact leadCycle_cycle (Nat.lt_of_not_le hd) h

theorem unstableStore_cycle {reg : Cpu → Byte} {after : Cpu → Cpu} (hafter : ∀ c, Operates ws c (after c))
    (h : unstableStore m reg after s = .next t) :
    Cycle (writeProfile ws m) (if datumCycle m ≤ s.cpu.t then some (unstableAddr m (reg s.cpu) s.cpu) else none)
      s t := by
  unfold unstableStore at h
  split_ifs at h ⊢
  · exact lastWrite_cycle rfl hafter h
  next hd => exact leadCycle_cycle (Nat.lt_of_not_le hd) h

theorem rmwMem_cycle {operate : Byte → Cpu → Byte × Cpu} {final : Byte → Cpu → Cpu}
    (hop : ∀ v c, Operates ws c (operate v c).2) (hfinal : ∀ v c, Operates ws c (final v c))
    (h : rmwMem m operate final s = .next t) :
    Cycle (rmwProfile ws m) (if datumCycle m < s.cpu.t then some (effAddr m s.cpu) else none) s t := by
  unfold rmwMem at h
  split_ifs at h with hlead hdatum hback
  · rw [if_neg (by omega)]
    exact leadCycle_cycle (p := rmwProfile ws m) (by simp only [rmwProfile]; omega) h
  · rw [if_neg (by omega)]
    exact readCycle_nextCycle (p := rmwProfile ws m) (g := fun v c => { c with data := v })
      (by simp only [rmwProfile]; omega) (fun _ => Operates.refl _ _) h
  · rw [if_pos (by omega)]
    exact writeCycle_nextCycle (p := rmwProfile ws m)
      (g := fun c => { (operate c.data c).2 with data := (operate c.data c).1 })
      (by simp only [rmwProfile]; omega) (hop s.cpu.data s.cpu) h
  · rw [if_pos (by omega)]
    exact lastWrite_cycle rfl (hfinal _) h

theorem implied_cycle {op : Cpu → Cpu} (hop : ∀ c, Operates ws c (op c)) (h : implied op s = .next t) :
    Cycle (impliedProfile ws) none s t := lastRead_cycle rfl (fun _ => hop) h

theorem immediate_cycle {op : Byte → Cpu → Cpu} {v : Byte} (hop : ∀ v c, Operates ws c (op v c))
    (h : immediate op v s = .next t) : Cycle (immediateProfile ws) none s t :=
  endInstr_cycle (StoresNothing.refl s) rfl rfl (hop v) h

/-- An immediate that takes a draw (R329, R334). -/
theorem immediate_drawn_cycle {op : Byte → Cpu → Cpu} {v : Byte} (hop : ∀ v c, Operates ws c (op v c))
    (h : immediate op v (drawn s) = .next t) : Cycle (immediateProfile ws) none s t :=
  endInstr_cycle (s1 := drawn s) (StoresNothing.refl s) rfl rfl (hop v) h

theorem readSrc_cycle {o : Src} {op : Byte → Cpu → Cpu} (hop : ∀ v c, Operates ws c (op v c))
    (h : readSrc o op s = .next t) : Cycle (srcProfile ws o) none s t := by
  cases o
  · exact immediate_cycle hop h
  · exact readMem_cycle hop h

/-- Where a shift stores. -/
def dstStore (d : Dst) (c : Cpu) : Option Word :=
  match d with
  | .acc => none
  | .mem m => if datumCycle m < c.t then some (effAddr m c) else none

theorem shiftDst_cycle {d : Dst} {f : Byte → Bool → Byte × Bool} (h : shiftDst d f s = .next t) :
    Cycle (dstProfile d) (dstStore d s.cpu) s t := by
  cases d <;> simp only [shiftDst] at h
  · exact implied_cycle (fun c => by simp [Operates, Keeps, shifted]) h
  · exact rmwMem_cycle (fun v c => shifted_operates v c f) (fun _ c => Operates.refl _ c) h

theorem shiftThen_cycle {f : Byte → Bool → Byte × Bool} {final : Byte → Cpu → Cpu} (hc : Piece.c ∈ ws)
    (hfinal : ∀ v c, Operates ws c (final v c)) (h : shiftThen m f final s = .next t) :
    Cycle (rmwProfile ws m) (if datumCycle m < s.cpu.t then some (effAddr m s.cpu) else none) s t :=
  rmwMem_cycle (fun v c => by simp [Operates, Keeps, hc]) hfinal h

theorem branch_cycle {taken : Cpu → Bool} {off : Byte} (h : branch taken off s = .next t) :
    Cycle branchProfile none s t := by
  unfold branch at h
  split_ifs at h with ht htaken h3 hcross
  · cases h
    exact cycle_nextCycle (p := branchProfile) rfl (StoresNothing.refl s) (by simp only [branchProfile]; omega)
      (Operates.refl _ _)
  · exact endInstr_cycle (g := fun c => { c with taken := false }) (StoresNothing.refl s) rfl
      (decide_eq_true (by omega)) (fun c => Operates.refl _ c) h
  · exact readCycle_nextCycle (p := branchProfile) (g := fun _ c => { c with pc := cat (hi c.pc) (lo c.ea) })
      (by simp only [branchProfile]; omega) (fun _ => by simp [Operates, Keeps, branchProfile]) h
  · exact readCycle_endInstr (p := branchProfile) (g := fun _ c => { c with pc := cat (hi c.pc) (lo c.ea) })
      (decide_eq_true (by omega)) (fun _ => by simp [Operates, Keeps, branchProfile]) h
  · exact lastRead_cycle (decide_eq_true (by omega)) (fun _ _ => by simp [Operates, Keeps, branchProfile]) h

/-! ## The sequences -/

theorem vectorLow_operates (vec : Word) (v : Byte) (c : Cpu) :
    Operates [.sp, .pc, .i, .nmiPending] c (vectorLow vec v c) := by simp [Operates, Keeps, vectorLow]

/-- T3 to T7 of the interrupt entry (R180, R409). -/
theorem entryCycle_cycle {b : Bool} {vec : State → Word} (ht : 3 ≤ s.cpu.t) (h : entryCycle b vec s = .next t) :
    Cycle entryProfile (entryStore s.cpu) s t := by
  have hsp : Piece.sp ∈ entryProfile.writes := by decide
  unfold entryCycle at h
  unfold entryStore
  split at h
  next h3 =>
    rw [if_pos (by omega)]
    exact pushCycle_nextCycle (by simp only [entryProfile]; omega) hsp h
  next h4 =>
    rw [if_pos (by omega)]
    exact pushCycle_nextCycle (by simp only [entryProfile]; omega) hsp h
  next h5 =>
    rw [if_pos (by omega)]
    exact writeCycle_nextCycle (p := entryProfile) (g := fun c => { decSp c with ea := vec s })
      (by simp only [entryProfile]; omega) (decSp_operates hsp s.cpu) h
  next h6 =>
    rw [if_neg (by omega)]
    exact readCycle_nextCycle (p := entryProfile) (by simp only [entryProfile]; omega)
      (fun v => vectorLow_operates _ v s.cpu) h
  next h3 h4 h5 _ =>
    have hne : s.cpu.t ≠ 3 ∧ s.cpu.t ≠ 4 ∧ s.cpu.t ≠ 5 := ⟨h3, h4, h5⟩
    rw [if_neg (by omega)]
    exact readCycle_enterHandler (p := entryProfile) (g := fun v c => { c with pc := cat v c.data }) rfl
      (fun _ => by simp [Operates, Keeps, entryProfile]) h

/-- The IRQ and the NMI sequence (R409). -/
theorem interruptCycle_cycle {vec : State → Word} (h : interruptCycle vec s = .next t) :
    Cycle entryProfile (entryStore s.cpu) s t := by
  unfold interruptCycle at h
  split at h
  next ht =>
    rw [entryStore, if_neg (by omega)]
    exact dummyRead_cycle (by simp only [entryProfile]; omega) h
  next ht => exact entryCycle_cycle (by omega) h

/-- The reset sequence (R414). -/
theorem resetCycle_cycle (h : resetCycle s = .next t) : Cycle resetProfile none s t := by
  have hdec (h : readCycle (stackAddr s.cpu.sp) (fun _ s' => nextCycle (mapCpu decSp s')) s = .next t)
      (ht : s.cpu.t < 7) : Cycle resetProfile none s t :=
    readCycle_nextCycle (g := fun _ => decSp) ht (fun _ => decSp_operates (by decide) _) h
  unfold resetCycle at h
  split at h
  next ht => exact dummyRead_cycle (by simp only [resetProfile]; omega) h
  next ht => exact dummyRead_cycle (by simp only [resetProfile]; omega) h
  next ht => exact hdec h (by omega)
  next ht => exact hdec h (by omega)
  next ht => exact hdec h (by omega)
  next ht =>
    exact readCycle_nextCycle (p := resetProfile) (g := fun v c => { c with data := v, i := true })
      (by simp only [resetProfile]; omega) (fun _ => by simp [Operates, Keeps, resetProfile]) h
  next =>
    exact readCycle_enterHandler (p := resetProfile) (g := fun v c => { c with pc := cat v c.data }) rfl
      (fun _ => by simp [Operates, Keeps, resetProfile]) h

end Templates

end Sys2Proof.Machine
end

section
/-! SUPPORT. The profile of every instruction, where its cycles store, and that every cycle of it is one of its
profile. -/

namespace Sys2Proof.Machine

/-- The profile of an instruction: its template and what its rule writes (R46, R187). -/
def profileOf : Instr → Profile
  | .lda o | .and o | .ora o | .eor o => srcProfile [.a, .n, .z] o
  | .ldx o => srcProfile [.x, .n, .z] o
  | .ldy o => srcProfile [.y, .n, .z] o
  | .adc o | .sbc o => srcProfile [.a, .n, .z, .c, .v] o
  | .cmp o | .cpx o | .cpy o => srcProfile [.n, .z, .c] o
  | .bit m => readProfile [.n, .v, .z] m
  | .lax m => readProfile [.a, .x, .n, .z] m
  | .las m => readProfile [.a, .x, .sp, .n, .z] m
  | .nop _ n => nopProfile n
  | .sta m | .stx m | .sty m | .sax m | .sha m | .shx m | .shy m => writeProfile [] m
  | .tas m => writeProfile [.sp] m
  | .inc m | .dec m => rmwProfile [.n, .z] m
  | .slo m | .rla m | .sre m => rmwProfile [.a, .n, .z, .c] m
  | .rra m | .isc m => rmwProfile [.a, .n, .z, .c, .v] m
  | .dcp m => rmwProfile [.n, .z, .c] m
  | .asl d | .lsr d | .rol d | .ror d => dstProfile d
  | .tax | .tsx | .inx | .dex => impliedProfile [.x, .n, .z]
  | .tay | .iny | .dey => impliedProfile [.y, .n, .z]
  | .txa | .tya => impliedProfile [.a, .n, .z]
  | .txs => impliedProfile [.sp]
  | .clc | .sec => impliedProfile [.c]
  | .cli | .sei => impliedProfile [.i]
  | .cld | .sed => impliedProfile [.d]
  | .clv => impliedProfile [.v]
  | .lxa _ => immediateProfile [.a, .x, .n, .z]
  | .ane _ => immediateProfile [.a, .n, .z]
  | .anc _ _ | .alr _ => immediateProfile [.a, .n, .z, .c]
  | .arr _ | .usbc _ => immediateProfile [.a, .n, .z, .c, .v]
  | .sbx _ => immediateProfile [.x, .n, .z, .c]
  | .pha | .php => stackProfile [.sp] 3
  | .pla => stackProfile [.sp, .a, .n, .z] 4
  | .plp => stackProfile [.sp, .n, .v, .d, .i, .z, .c] 4
  | .rts => stackProfile [.sp, .pc] 6
  | .rti => stackProfile [.sp, .pc, .n, .v, .d, .i, .z, .c] 6
  | .jmp j => jumpProfile j
  | .jsr _ => jsrProfile
  | .brk => entryProfile
  | .bpl _ | .bmi _ | .bvc _ | .bvs _ | .bcc _ | .bcs _ | .bne _ | .beq _ => branchProfile
  | .jam _ => jamProfile

/-- Where a cycle of an instruction stores, if it does (R174, R175, R176, R177, R180, R343). -/
def storeAddr (i : Instr) (c : Cpu) : Option Word :=
  match i with
  | .sta m | .stx m | .sty m | .sax m => if datumCycle m ≤ c.t then some (effAddr m c) else none
  | .sha m | .tas m => if datumCycle m ≤ c.t then some (unstableAddr m (c.a &&& c.x) c) else none
  | .shx m => if datumCycle m ≤ c.t then some (unstableAddr m c.x c) else none
  | .shy m => if datumCycle m ≤ c.t then some (unstableAddr m c.y c) else none
  | .inc m | .dec m | .slo m | .rla m | .sre m | .rra m | .dcp m | .isc m =>
    if datumCycle m < c.t then some (effAddr m c) else none
  | .asl d | .lsr d | .rol d | .ror d => dstStore d c
  | .pha | .php => if 3 ≤ c.t then some (stackAddr c.sp) else none
  | .jsr _ => if c.t = 4 ∨ c.t = 5 then some (stackAddr c.sp) else none
  | .brk => entryStore c
  | .lda _ | .ldx _ | .ldy _ | .adc _ | .sbc _ | .cmp _ | .cpx _ | .cpy _ | .and _ | .ora _ | .eor _
  | .bit _ | .lax _ | .las _ | .nop _ _
  | .tax | .tay | .txa | .tya | .tsx | .txs | .inx | .iny | .dex | .dey | .clc | .sec | .cli | .sei | .cld | .sed | .clv
  | .lxa _ | .anc _ _ | .alr _ | .arr _ | .ane _ | .sbx _ | .usbc _ | .jam _
  | .pla | .plp | .rts | .rti | .jmp _
  | .bpl _ | .bmi _ | .bvc _ | .bvs _ | .bcc _ | .bcs _ | .bne _ | .beq _ => none

section

variable {s t : State}

theorem execNop_cycle {n : NopArg} (h : execNop n s = .next t) : Cycle (nopProfile n) none s t := by
  cases n <;> simp only [execNop] at h
  · exact implied_cycle (fun c => Operates.refl _ c) h
  · exact immediate_cycle (op := fun _ c => c) (fun _ c => Operates.refl _ c) h
  · exact readMem_cycle (fun _ c => Operates.refl _ c) h

/-- A cycle of PHA or PHP (R176). -/
theorem push_cycle {v : Byte}
    (h : (if s.cpu.t ≤ 2 then dummyRead s.cpu.pc s else pushCycle v endInstr (poll s)) = .next t) :
    Cycle (stackProfile [.sp] 3) (if 3 ≤ s.cpu.t then some (stackAddr s.cpu.sp) else none) s t := by
  split at h
  · rw [if_neg (by omega)]
    exact dummyRead_cycle (by simp only [stackProfile]; omega) h
  · rw [if_pos (by omega)]
    exact pushCycle_poll_cycle rfl (by decide) h

theorem execPla_cycle (h : execPla s = .next t) : Cycle (profileOf .pla) none s t := by
  unfold execPla at h
  split at h
  next ht => exact dummyRead_cycle (by simp only [profileOf, stackProfile]; omega) h
  next ht => exact stackBump_cycle (by simp only [profileOf, stackProfile]; omega) (by decide) h
  next => exact lastRead_cycle rfl (fun v c => by simp [Operates, Keeps, profileOf, stackProfile]) h

theorem execPlp_cycle (h : execPlp s = .next t) : Cycle (profileOf .plp) none s t := by
  unfold execPlp at h
  split at h
  next ht => exact dummyRead_cycle (by simp only [profileOf, stackProfile]; omega) h
  next ht => exact stackBump_cycle (by simp only [profileOf, stackProfile]; omega) (by decide) h
  next => exact lastRead_cycle rfl unpackP_operates h

theorem execRts_cycle (h : execRts s = .next t) : Cycle (profileOf .rts) none s t := by
  have hsp : Piece.sp ∈ (profileOf .rts).writes := by decide
  unfold execRts at h
  split at h
  next ht => exact dummyRead_cycle (by simp only [profileOf, stackProfile]; omega) h
  next ht => exact stackBump_cycle (by simp only [profileOf, stackProfile]; omega) hsp h
  next ht =>
    exact readCycle_nextCycle (p := profileOf .rts) (g := fun v c => incSp { c with data := v })
      (by simp only [profileOf, stackProfile]; omega) (fun _ => incSp_operates hsp s.cpu) h
  next ht =>
    exact readCycle_nextCycle (p := profileOf .rts) (g := fun v c => { c with pc := cat v c.data })
      (by simp only [profileOf, stackProfile]; omega) (fun _ => by simp [Operates, Keeps, profileOf, stackProfile]) h
  next => exact lastRead_cycle rfl (fun _ c => by simp [Operates, Keeps, profileOf, stackProfile]) h

theorem returnCycle_cycle (h : returnCycle s = .next t) : Cycle (profileOf .rti) none s t := by
  have hsp : Piece.sp ∈ (profileOf .rti).writes := by decide
  unfold returnCycle at h
  split at h
  next ht => exact dummyRead_cycle (by simp only [profileOf, stackProfile]; omega) h
  next ht => exact stackBump_cycle (by simp only [profileOf, stackProfile]; omega) hsp h
  next ht =>
    exact readCycle_nextCycle (p := profileOf .rti) (g := fun v c => incSp (unpackP v c))
      (by simp only [profileOf, stackProfile]; omega)
      (fun _ => by simp [Operates, Keeps, profileOf, stackProfile]) h
  next ht =>
    exact readCycle_nextCycle (p := profileOf .rti) (g := fun v c => incSp { c with data := v })
      (by simp only [profileOf, stackProfile]; omega) (fun _ => incSp_operates hsp s.cpu) h
  next => exact lastRead_cycle rfl (fun _ c => by simp [Operates, Keeps, profileOf, stackProfile]) h

theorem execJmp_cycle {j : JumpTo} (h : execJmp j s = .next t) : Cycle (jumpProfile j) none s t := by
  cases j with
  | abs w =>
    exact endInstr_cycle (g := fun c => { c with pc := w }) (StoresNothing.refl s) rfl rfl
      (fun c => by simp [Operates, Keeps, jumpProfile]) h
  | ind w =>
    simp only [execJmp] at h
    split at h
    · exact readCycle_nextCycle (p := jumpProfile (.ind w)) (g := fun v c => { c with data := v })
        (by simp only [jumpProfile]; omega) (fun _ => Operates.refl _ _) h
    · exact lastRead_cycle rfl (fun _ c => by simp [Operates, Keeps, jumpProfile]) h

theorem execJsr_cycle {w : Word} (h : execJsr w s = .next t) :
    Cycle jsrProfile (if s.cpu.t = 4 ∨ s.cpu.t = 5 then some (stackAddr s.cpu.sp) else none) s t := by
  have hsp : Piece.sp ∈ jsrProfile.writes := by decide
  unfold execJsr at h
  split at h
  next ht =>
    rw [if_neg (by omega)]
    exact dummyRead_cycle (by simp only [jsrProfile]; omega) h
  next ht =>
    rw [if_pos (by omega)]
    exact pushCycle_nextCycle (by simp only [jsrProfile]; omega) hsp h
  next ht =>
    rw [if_pos (by omega)]
    exact pushCycle_nextCycle (by simp only [jsrProfile]; omega) hsp h
  next h3 h4 h5 =>
    have hne : s.cpu.t ≠ 3 ∧ s.cpu.t ≠ 4 ∧ s.cpu.t ≠ 5 := ⟨h3, h4, h5⟩
    rw [if_neg (by omega)]
    exact endInstr_cycle (g := fun c => { c with pc := w }) (StoresNothing.refl s) rfl (by simp [jsrProfile, hne])
      (fun c => by simp [Operates, Keeps, jsrProfile]) h

theorem execBrk_cycle (h : execBrk s = .next t) : Cycle entryProfile (entryStore s.cpu) s t := by
  unfold execBrk at h
  split at h
  next ht =>
    rw [entryStore, if_neg (by omega)]
    exact readCycle_nextCycle (p := entryProfile) (g := fun _ c => { c with pc := c.pc + 1 })
      (by simp only [entryProfile]; omega) (fun _ => by simp [Operates, Keeps, entryProfile]) h
  next ht => exact entryCycle_cycle (by omega) h

theorem execJam_cycle (h : execJam s = .next t) : Cycle jamProfile none s t := by
  cases h
  exact ⟨by simp [Keeps, jamProfile], StoresNothing.refl s, .halts rfl rfl (by decide) rfl rfl⟩

/-- Every cycle of every instruction is one of its profile, and stores where `storeAddr` says. -/
theorem exec_cycle {i : Instr} (h : exec i s = .next t) : Cycle (profileOf i) (storeAddr i s.cpu) s t := by
  cases i <;> simp only [exec] at h <;> simp only [profileOf, storeAddr]
  case lda => exact readSrc_cycle loadA_operates h
  case ldx => exact readSrc_cycle loadX_operates h
  case ldy => exact readSrc_cycle loadY_operates h
  case adc => exact readSrc_cycle adcOp_operates h
  case sbc => exact readSrc_cycle sbcOp_operates h
  case and | ora | eor => exact readSrc_cycle (fun _ c => loadA_operates _ c) h
  case cmp | cpx | cpy => exact readSrc_cycle (fun v c => compareOp_operates v c _) h
  case bit => exact readMem_cycle bitOp_operates h
  case lax => exact readMem_cycle (fun _ c => by simp [Operates, Keeps]) h
  case las => exact readMem_cycle lasOp_operates h
  case nop => exact execNop_cycle h
  case sta | stx | sty | sax => exact writeMem_cycle h
  case sha => exact unstableStore_cycle (reg := fun c => c.a &&& c.x) (fun c => Operates.refl _ c) h
  case shx => exact unstableStore_cycle (reg := fun c => c.x) (fun c => Operates.refl _ c) h
  case shy => exact unstableStore_cycle (reg := fun c => c.y) (fun c => Operates.refl _ c) h
  case tas =>
    exact unstableStore_cycle (reg := fun c => c.a &&& c.x) (fun c => by simp [Operates, Keeps]) h
  case inc | dec => exact rmwMem_cycle (fun _ c => by simp [Operates, Keeps]) (fun _ c => Operates.refl _ c) h
  case dcp => exact rmwMem_cycle (fun _ c => Operates.refl _ c) (fun v c => compareOp_operates v c _) h
  case isc => exact rmwMem_cycle (fun _ c => Operates.refl _ c) sbcOp_operates h
  case slo | rla | sre => exact shiftThen_cycle (by decide) (fun _ c => by simp [Operates, Keeps]) h
  case rra => exact shiftThen_cycle (by decide) adcOp_operates h
  case asl | lsr | rol | ror => exact shiftDst_cycle h
  case tax | tsx | inx | dex => exact implied_cycle (fun c => loadX_operates _ c) h
  case tay | iny | dey => exact implied_cycle (fun c => loadY_operates _ c) h
  case txa | tya => exact implied_cycle (fun c => loadA_operates _ c) h
  case txs | clc | sec | cli | sei | cld | sed | clv => exact implied_cycle (fun c => by simp [Operates, Keeps]) h
  case lxa => exact immediate_drawn_cycle (fun v c => lxaOp_operates v c _) h
  case ane => exact immediate_drawn_cycle (fun v c => aneOp_operates v c _) h
  case anc => exact immediate_cycle ancOp_operates h
  case alr => exact immediate_cycle alrOp_operates h
  case arr => exact immediate_cycle arrOp_operates h
  case sbx => exact immediate_cycle sbxOp_operates h
  case usbc => exact immediate_cycle sbcOp_operates h
  case pha | php => exact push_cycle h
  case pla => exact execPla_cycle h
  case plp => exact execPlp_cycle h
  case rts => exact execRts_cycle h
  case rti => exact returnCycle_cycle h
  case jmp => exact execJmp_cycle h
  case jsr => exact execJsr_cycle h
  case brk => exact execBrk_cycle h
  case bpl | bmi | bvc | bvs | bcc | bcs | bne | beq => exact branch_cycle h
  case jam => exact execJam_cycle h

/-- A frame of an instruction that stores nothing. -/
theorem exec_frame {i : Instr} {ws : List Piece} (hw : (profileOf i).writes = ws) (ho : storeAddr i s.cpu = none)
    (h : exec i s = .next t) : Keeps ws s.cpu t.cpu ∧ StoresNothing s t := by
  obtain ⟨hkeeps, hstores, -⟩ := exec_cycle h
  rw [hw] at hkeeps
  rw [ho] at hstores
  exact ⟨hkeeps, hstores⟩

/-- A frame of an instruction that stores at `a` where `P` holds. -/
theorem exec_frame_stores {i : Instr} {ws : List Piece} {P : Prop} [Decidable P] {a : Word}
    (hw : (profileOf i).writes = ws) (ho : storeAddr i s.cpu = if P then some a else none)
    (h : exec i s = .next t) : Keeps ws s.cpu t.cpu ∧ (if P then StoresAt a s t else StoresNothing s t) := by
  obtain ⟨hkeeps, hstores, -⟩ := exec_cycle h
  rw [hw] at hkeeps
  rw [ho] at hstores
  refine ⟨hkeeps, ?_⟩
  split_ifs at hstores ⊢ <;> exact hstores

end

end Sys2Proof.Machine
end

section
/-! The frames of the instructions: their profiles' `writes` and where their cycles store. -/

namespace Sys2Proof.Machine

/-- Settles O42: each of these instructions writes what its profile says and has no cycle that stores. -/
theorem frameRegisters : Obligations.FrameRegisters := by
  intro s t
  refine ⟨fun p hp h => ?_, fun v p hp h => ?_, fun op v p hp h => ?_, fun j h => ?_⟩
  case refine_1 | refine_2 | refine_3 => fin_cases hp <;> exact exec_frame rfl rfl h
  case refine_4 => cases j <;> exact exec_frame rfl rfl h

/-- Settles O43: a read writes what its profile says, whatever its form, and has no cycle that stores. -/
theorem frameReads : Obligations.FrameReads := by
  intro s t m op p hp h
  fin_cases hp <;> exact exec_frame rfl rfl h

/-- Settles O45: the two cycles of a read-modify-write after its datum's store at the effective address. -/
theorem frameRmw : Obligations.FrameRmw := by
  intro s t m p hp h
  fin_cases hp <;> exact exec_frame_stores rfl rfl h

/-- Settles O46: the pushing cycles store at `$0100 | S`, the others nothing. -/
theorem frameStack : Obligations.FrameStack := by
  intro s t
  refine ⟨fun i hi h => ?_, exec_frame rfl rfl, exec_frame rfl rfl, exec_frame rfl rfl, exec_frame rfl rfl,
    fun w => exec_frame_stores rfl rfl, exec_frame_stores rfl rfl⟩
  simp only [List.mem_cons, List.not_mem_nil, or_false] at hi
  rcases hi with rfl | rfl <;> exact exec_frame_stores rfl rfl h

end Sys2Proof.Machine
end

section
/-! SUPPORT. The rows of R189 and the cycles of the step (Cycle.lean): the fetches around `exec`, the CPU cycle and
the master cycle, each inverted once. -/

namespace Sys2Proof.Machine

/-! ## The rows of the opcode map -/

/-- The row of an opcode is one of the map's 256. -/
theorem rowOf_mem (op : Byte) : rowOf op ∈ opcodeMap := by
  have hmap : opcodeMap.length = 256 := by simp only [opcodeMap, List.length_append]; rfl
  have hlen : op.toNat < opcodeMap.length := hmap ▸ op.isLt
  rw [rowOf, List.getD_eq_getElem _ _ hlen]
  exact List.getElem_mem hlen

/-- The sixteen rows of R189. -/
def opcodeRows : List (List (Mnem × Mode)) :=
  [opcodeRow0, opcodeRow1, opcodeRow2, opcodeRow3, opcodeRow4, opcodeRow5, opcodeRow6, opcodeRow7,
    opcodeRow8, opcodeRow9, opcodeRowA, opcodeRowB, opcodeRowC, opcodeRowD, opcodeRowE, opcodeRowF]

theorem rowOf_mem_rows (op : Byte) : ∃ rows ∈ opcodeRows, rowOf op ∈ rows := by
  have hflat : opcodeMap = opcodeRows.flatten := by simp [opcodeMap, opcodeRows]
  exact List.mem_flatten.1 (hflat ▸ rowOf_mem op)

/-- What holds of every entry of the map holds of the row of every opcode. -/
theorem rowOf_forall {P : Mnem × Mode → Prop} (h : ∀ rows ∈ opcodeRows, ∀ r ∈ rows, P r) (op : Byte) :
    P (rowOf op) := by
  obtain ⟨rows, hrows, hr⟩ := rowOf_mem_rows op
  exact h rows hrows _ hr

/-- The profile of the instructions of a row: it does not depend on the operand bytes. -/
def rowProfile (r : Mnem × Mode) : Profile := profileOf (buildInstr r.1 r.2 0 0 0)

theorem profileOf_instrOf (op b1 b2 : Byte) : profileOf (instrOf op b1 b2) = rowProfile (rowOf op) := by
  rw [instrOf, rowProfile]
  generalize rowOf op = r
  obtain ⟨mn, md⟩ := r
  have hmem : datumCycle (memOf md b1 b2) = datumCycle (memOf md 0 0) := by cases md <;> rfl
  have hsrc (ws : List Piece) : srcProfile ws (srcOf md b1 b2) = srcProfile ws (srcOf md 0 0) := by
    cases md <;> rfl
  have hdst : dstProfile (dstOf md b1 b2) = dstProfile (dstOf md 0 0) := by cases md <;> rfl
  have hnop : nopProfile (nopOf md b1 b2) = nopProfile (nopOf md 0 0) := by cases md <;> rfl
  have hjump : jumpProfile (jumpOf md b1 b2) = jumpProfile (jumpOf md 0 0) := by cases md <;> rfl
  cases mn <;>
    simp only [buildInstr, profileOf, readProfile, writeProfile, rmwProfile, hmem, hsrc, hdst, hnop, hjump]

theorem instrOf_jam {op : Byte} (h : (rowOf op).1 = .jam) (b1 b2 : Byte) : instrOf op b1 b2 = .jam op := by
  rw [instrOf, h]
  rfl

/-! ## Fetches -/

/-- T1 of an instruction (R170): the opcode is latched, PC moves on, and a JAM halts (R186). -/
theorem opcodeCycle_eq_next {s t : State} (h : opcodeCycle s = .next t) :
    ∃ op s1, busRead s.cpu.pc s = .next (op, s1)
      ∧ t = mapCpu (fun c => { c with
          pc := c.pc + 1, seq := .instr op, t := 2
          jammed := if (rowOf op).1 = .jam then true else c.jammed }) s1 := by
  obtain ⟨⟨op, s1⟩, hread, hnext⟩ := andThen_eq_next.1 h
  refine ⟨op, s1, hread, ?_⟩
  by_cases hjam : (rowOf op).1 = .jam
  · simp only [hjam, if_true, latchedInstr, instrOf_jam hjam] at hnext ⊢
    cases hnext
    rfl
  · simp only [hjam, if_false] at hnext ⊢
    cases hnext
    rfl

/-- A cycle of an instruction after T1: a fetch, a fetch on which the instruction operates, or one of `exec`'s. -/
inductive InstrCycle (op : Byte) (s t : State) : Prop where
  | fetches (f : Fetch) (v : Byte) (s1 : State) (hf : fetchAt op s.cpu.t = some f)
      (hop : operatesOnFetch op s.cpu.t = false) (hread : busRead s.cpu.pc s = .next (v, s1))
      (ht : t = nextCycle (mapCpu (latchOperand f v) s1))
  | operates (f : Fetch) (v : Byte) (s1 : State) (i : Instr) (hf : fetchAt op s.cpu.t = some f)
      (hop : operatesOnFetch op s.cpu.t = true) (hread : busRead s.cpu.pc (poll s) = .next (v, s1))
      (hi : profileOf i = rowProfile (rowOf op)) (hexec : exec i (mapCpu (latchOperand f v) s1) = .next t)
  | executes (i : Instr) (hf : fetchAt op s.cpu.t = none) (hi : profileOf i = rowProfile (rowOf op))
      (hexec : exec i s = .next t)

theorem instrCycle_cases {op : Byte} {s t : State} (h : instrCycle op s = .next t) : InstrCycle op s t := by
  unfold instrCycle at h
  split at h
  next f hf =>
    unfold operandCycle at h
    split at h
    next hop =>
      obtain ⟨⟨v, s1⟩, hread, hexec⟩ := andThen_eq_next.1 h
      exact .operates f v s1 _ hf hop hread (profileOf_instrOf _ _ _) hexec
    next hop =>
      obtain ⟨v, s1, hread, rfl⟩ := readCycle_eq_next.1 h
      exact .fetches f v s1 hf (by simpa using hop) hread rfl
  next hf => exact .executes _ hf (profileOf_instrOf _ _ _) h

theorem latchOperand_keeps (f : Fetch) (v : Byte) (c : Cpu) : Keeps [.pc] c (latchOperand f v c) := by
  cases f <;> simp [Keeps, latchOperand]

theorem latchOperand_sequencer (f : Fetch) (v : Byte) (c : Cpu) :
    (latchOperand f v c).seq = c.seq ∧ (latchOperand f v c).t = c.t
      ∧ (latchOperand f v c).pollIrq = c.pollIrq ∧ (latchOperand f v c).pollNmi = c.pollNmi := by
  cases f <;> exact ⟨rfl, rfl, rfl, rfl⟩

/-! ## What a CPU cycle writes -/

/-- The pieces that a CPU cycle may write, by what the CPU is executing: PC and the halt with every fetch, and those
of the instruction or sequence. -/
def seqWrites (q : Seq) : List Piece :=
  .pc :: .jammed ::
    match q with
    | .boundary | .handler => []
    | .instr op => (rowProfile (rowOf op)).writes
    | .irqSeq | .nmiSeq => entryProfile.writes
    | .resetSeq => resetProfile.writes

theorem opcodeCycle_keeps {s t : State} (h : opcodeCycle s = .next t) : Keeps [.pc, .jammed] s.cpu t.cpu := by
  obtain ⟨op, s1, hread, rfl⟩ := opcodeCycle_eq_next h
  simp [Keeps, (busRead_frame hread).1]

theorem instrCycle_keeps {op : Byte} {s t : State} (h : instrCycle op s = .next t) :
    Keeps (.pc :: (rowProfile (rowOf op)).writes) s.cpu t.cpu := by
  have hpc : [Piece.pc] ⊆ .pc :: (rowProfile (rowOf op)).writes := by simp
  cases instrCycle_cases h with
  | fetches f v s1 _ _ hread ht =>
    subst ht
    have hlatch := latchOperand_keeps f v s.cpu
    rw [← (busRead_frame hread).1] at hlatch ⊢
    exact hlatch.mono hpc
  | operates f v s1 i _ _ hread hi hexec =>
    have hlatch : Keeps [.pc] s.cpu (latchOperand f v s1.cpu) := by
      rw [(busRead_frame hread).1]
      exact latchOperand_keeps f v (poll s).cpu
    exact (hlatch.mono hpc).trans ((hi ▸ (exec_cycle hexec).keeps).mono (List.subset_cons_self _ _))
  | executes i _ hi hexec => exact (hi ▸ (exec_cycle hexec).keeps).mono (List.subset_cons_self _ _)

/-- A CPU cycle writes the pieces of what it executes alone. -/
theorem cpuCycle_keeps {s t : State} (h : cpuCycle s = .next t) : Keeps (seqWrites s.cpu.seq) s.cpu t.cpu := by
  unfold cpuCycle at h
  split at h
  next hq =>
    have hT1 {vec : State → Word} {q : Seq} (h : interruptCycle vec (beginSeq q s) = .next t) :
        Keeps [.pc, .jammed] s.cpu t.cpu := by
      obtain ⟨v, s1, hread, rfl⟩ := dummyRead_eq_next.1 h
      have hcpu : s1.cpu = (beginSeq q s).cpu := (busRead_frame hread).1
      simp [Keeps, hcpu, beginSeq]
    rw [hq]
    split_ifs at h
    · exact hT1 h
    · exact hT1 h
    · exact opcodeCycle_keeps h
  next hq => exact hq ▸ opcodeCycle_keeps h
  next op hq =>
    rw [hq]
    exact (instrCycle_keeps h).mono (List.cons_subset_cons _ (List.subset_cons_self _ _))
  next hq =>
    rw [hq]
    exact (interruptCycle_cycle h).keeps.mono fun _ hp => List.mem_cons_of_mem _ (List.mem_cons_of_mem _ hp)
  next hq =>
    rw [hq]
    exact (interruptCycle_cycle h).keeps.mono fun _ hp => List.mem_cons_of_mem _ (List.mem_cons_of_mem _ hp)
  next hq =>
    rw [hq]
    exact (resetCycle_cycle h).keeps.mono fun _ hp => List.mem_cons_of_mem _ (List.mem_cons_of_mem _ hp)

/-! ## The accesses of a CPU cycle -/

/-- A CPU cycle makes one access, or the fetch of an opcode or operand byte and then one. -/
theorem cpuCycle_accesses {s t : State} (h : cpuCycle s = .next t) :
    OneAccess s t ∨ ∃ f a v u, busRead a (mapCpu f s) = .next (v, u) ∧ OneAccess u t := by
  have hfetch {s t : State} (h : opcodeCycle s = .next t) : OneAccess s t := by
    obtain ⟨op, s1, hread, rfl⟩ := opcodeCycle_eq_next h
    exact (Access.read hread).oneAccess _
  unfold cpuCycle at h
  split at h
  next =>
    have hT1 {vec : State → Word} {q : Seq} (h : interruptCycle vec (beginSeq q s) = .next t) : OneAccess s t := by
      obtain ⟨v, s1, hread, rfl⟩ := dummyRead_eq_next.1 h
      exact ⟨_, _, s1, .read hread, rfl⟩
    split_ifs at h
    · exact .inl (hT1 h)
    · exact .inl (hT1 h)
    · exact .inl (hfetch h)
  next => exact .inl (hfetch h)
  next op _ =>
    cases instrCycle_cases h with
    | fetches f v s1 _ _ hread ht =>
      subst ht
      exact .inl ((Access.read hread).oneAccess fun c => { latchOperand f v c with t := (latchOperand f v c).t + 1 })
    | operates f v s1 i _ _ hread _ hexec =>
      obtain ⟨f', g, s2, haccess, hg⟩ := exec_oneAccess hexec
      exact .inr ⟨_, _, v, s1, hread, ⟨fun c => f' (latchOperand f v c), g, s2, haccess, hg⟩⟩
    | executes i _ _ hexec => exact .inl (exec_oneAccess hexec)
  next => exact .inl (interruptCycle_oneAccess h)
  next => exact .inl (interruptCycle_oneAccess h)
  next => exact .inl (resetCycle_oneAccess h)

/-! ## The stages around the CPU's -/

@[simp] theorem beforeCpu_cpu (inp : CycleIn) (s : State) : (beforeCpu inp s).cpu = s.cpu := rfl
@[simp] theorem beforeCpu_ram (inp : CycleIn) (s : State) : (beforeCpu inp s).ram = s.ram := rfl
@[simp] theorem beforeCpu_color (inp : CycleIn) (s : State) : (beforeCpu inp s).color = s.color := rfl
@[simp] theorem beforeCpu_romBasic (inp : CycleIn) (s : State) : (beforeCpu inp s).romBasic = s.romBasic := rfl
@[simp] theorem beforeCpu_romKernal (inp : CycleIn) (s : State) : (beforeCpu inp s).romKernal = s.romKernal := rfl
@[simp] theorem beforeCpu_romChar (inp : CycleIn) (s : State) : (beforeCpu inp s).romChar = s.romChar := rfl
@[simp] theorem beforeCpu_params (inp : CycleIn) (s : State) : (beforeCpu inp s).params = s.params := rfl
@[simp] theorem beforeCpu_host (inp : CycleIn) (s : State) : (beforeCpu inp s).host = s.host := rfl
@[simp] theorem beforeCpu_inputs (inp : CycleIn) (s : State) : (beforeCpu inp s).inputs = s.inputs := rfl
@[simp] theorem beforeCpu_mcycle (inp : CycleIn) (s : State) : (beforeCpu inp s).mcycle = s.mcycle := rfl
@[simp] theorem beforeCpu_sound (inp : CycleIn) (s : State) : (beforeCpu inp s).sound = s.sound := rfl
@[simp] theorem beforeCpu_frames (inp : CycleIn) (s : State) : (beforeCpu inp s).frames = s.frames := rfl
@[simp] theorem beforeCpu_snapshot (inp : CycleIn) (s : State) :
    (beforeCpu inp s).snapshot = snapshotOf s.mcycle s.vic := rfl

/-- No stage before the CPU's writes a VIC register cell. -/
@[simp] theorem beforeCpu_cells (inp : CycleIn) (s : State) : (beforeCpu inp s).vic.cells = s.vic.cells := by
  have hpen (xy : Option (Byte × Byte)) (v : Vic) : (lightPen xy v).cells = v.cells := by
    unfold lightPen
    split
    · rfl
    · split <;> rfl
  have hden (p : Params) (v : Vic) : (denUpdate p v).cells = v.cells := by unfold denUpdate; split <;> rfl
  have hon (p : Params) (v : Vic) : (spriteSwitchOn p v).cells = v.cells := by unfold spriteSwitchOn; split <;> rfl
  have hstage : (beforeCpu inp s).vic.cells
      = (denUpdate s.params (rasterCompare (spriteCountdown s.params (spriteSwitchOn s.params s.vic)))).cells :=
    hpen _ _
  rw [hstage, hden]
  exact hon _ _

@[simp] theorem afterCpu_cpu (s : State) : (afterCpu s).cpu = { s.cpu with
    irqLatch := irqLine s, nmiPending := s.cpu.nmiPending || (nmiLine s && !s.cpu.nmiPrev), nmiPrev := nmiLine s } :=
  rfl
@[simp] theorem afterCpu_ram (s : State) : (afterCpu s).ram = s.ram := rfl
@[simp] theorem afterCpu_color (s : State) : (afterCpu s).color = s.color := rfl
@[simp] theorem afterCpu_romBasic (s : State) : (afterCpu s).romBasic = s.romBasic := rfl
@[simp] theorem afterCpu_romKernal (s : State) : (afterCpu s).romKernal = s.romKernal := rfl
@[simp] theorem afterCpu_romChar (s : State) : (afterCpu s).romChar = s.romChar := rfl
@[simp] theorem afterCpu_params (s : State) : (afterCpu s).params = s.params := rfl
@[simp] theorem afterCpu_host (s : State) : (afterCpu s).host = s.host := rfl
@[simp] theorem afterCpu_inputs (s : State) : (afterCpu s).inputs = s.inputs := rfl
@[simp] theorem afterCpu_mcycle (s : State) : (afterCpu s).mcycle = s.mcycle + 1 := rfl
@[simp] theorem afterCpu_sound (s : State) : (afterCpu s).sound = s.sound := rfl
@[simp] theorem afterCpu_snapshot (s : State) : (afterCpu s).snapshot = s.snapshot := rfl

@[simp] theorem afterCpu_cells (s : State) : (afterCpu s).vic.cells = s.vic.cells := by
  have hadvance (p : Params) (v : Vic) : (vicAdvance p v).cells = v.cells := by
    unfold vicAdvance
    split_ifs <;> rfl
  exact hadvance _ _

/-! ## The state a master cycle starts from -/

theorem supplied_of_reset {s : State} (h : ((cycleIn s).reset || s.cpu.resetPending) = true) :
    supplied s = applyReset { s with inputs := s.inputs.tail, host := (cycleIn s).held.getD s.host } := if_pos h

theorem supplied_of_no_reset {s : State} (h : ((cycleIn s).reset || s.cpu.resetPending) = false) :
    supplied s = { s with inputs := s.inputs.tail, host := (cycleIn s).held.getD s.host } :=
  if_neg (by simp [h])

/-- The host's reset or not: what of the state is in force either way. -/
theorem supplied_cases (s : State) :
    supplied s = applyReset { s with inputs := s.inputs.tail, host := (cycleIn s).held.getD s.host }
      ∨ supplied s = { s with inputs := s.inputs.tail, host := (cycleIn s).held.getD s.host } := by
  cases h : (cycleIn s).reset || s.cpu.resetPending
  · exact .inr (supplied_of_no_reset h)
  · exact .inl (supplied_of_reset h)

theorem supplied_noReset {s : State} (h : NoReset s) :
    supplied s = { s with inputs := s.inputs.tail, host := (cycleIn s).held.getD s.host } :=
  supplied_of_no_reset (by simp [h.1, h.2])

/-! ## The master cycle -/

/-- Stage (d) is the CPU's cycle, or nothing where it is stolen or the CPU halted. -/
theorem stageD_cases {stall : Bool} {s t : State} (h : stageD stall s = .next t) :
    (t = s ∧ (stall = true ∨ s.cpu.jammed = true))
      ∨ (cpuCycle s = .next t ∧ stall = false ∧ s.cpu.jammed = false) := by
  unfold stageD at h
  split at h
  next hidle =>
    cases h
    exact .inl ⟨rfl, by simpa using hidle⟩
  next hruns =>
    simp only [Bool.or_eq_true, not_or, Bool.not_eq_true] at hruns
    exact .inr ⟨h, hruns⟩

/-- A step is the stages before the CPU's, the CPU's, and those after it. -/
theorem step_eq_next {s t : State} (h : step s = .next t) :
    ∃ u, stageD (stalls (supplied s)) (beforeCpu (cycleIn s) (supplied s)) = .next u ∧ t = afterCpu u := by
  unfold step masterCycle at h
  dsimp only at h
  split at h
  next =>
    obtain ⟨u, hstage, hnext⟩ := andThen_eq_next.1 h
    cases hnext
    exact ⟨u, hstage, rfl⟩
  next => cases h

end Sys2Proof.Machine
end

section
/-! What every step keeps: the storage, the constants, and the events handed to the host. -/

namespace Sys2Proof.Machine

/-! ## Storage -/

/-- A read writes no VIC register cell. -/
theorem busRead_cells {a : Word} {v : Byte} {s t : State} (h : busRead a s = .next (v, t)) :
    t.vic.cells = s.vic.cells := by
  rw [(busRead_devices h).1]

theorem busRead_keepsStorage {a : Word} {v : Byte} {s t : State} (h : busRead a s = .next (v, t))
    (hs : StorageOk s) : StorageOk t := by
  unfold StorageOk
  rw [busRead_cells h]
  simpa [busRead_frame h] using hs

theorem busWrite_keepsStorage {a : Word} {v : Byte} {s t : State} (h : busWrite a v s = .next t)
    (hs : StorageOk s) : StorageOk t := by
  obtain ⟨hram, hcolor, hbasic, hkernal, hchar, hvic⟩ := hs
  obtain ⟨hram', hcolor', hvic'⟩ := busWrite_storage h hram hcolor hvic
  obtain ⟨-, hb, hk, hc, -⟩ := busWrite_frame h
  exact ⟨hram', hcolor', hb ▸ hbasic, hk ▸ hkernal, hc ▸ hchar, hvic'⟩

/-- One access keeps the canonical form of every storage. -/
theorem OneAccess.keepsStorage {s t : State} (h : OneAccess s t) (hs : StorageOk s) : StorageOk t := by
  obtain ⟨f, g, s1, ha, rfl⟩ := h
  cases ha with
  | none | draw => exact hs
  | read h =>
    have h1 : StorageOk s1 := busRead_keepsStorage h hs
    exact h1
  | write h =>
    have h1 : StorageOk s1 := busWrite_keepsStorage h hs
    exact h1

theorem cpuCycle_keepsStorage {s t : State} (h : cpuCycle s = .next t) (hs : StorageOk s) : StorageOk t := by
  obtain h1 | ⟨f, a, v, u, hread, h1⟩ := cpuCycle_accesses h
  · exact h1.keepsStorage hs
  · exact h1.keepsStorage (busRead_keepsStorage (s := mapCpu f s) hread hs)

theorem supplied_keepsStorage {s : State} (hs : StorageOk s) : StorageOk (supplied s) := by
  obtain ⟨hram, hcolor, hbasic, hkernal, hchar, hvic⟩ := hs
  obtain h | h := supplied_cases s <;> rw [h]
  · exact ⟨hram, hcolor, hbasic, hkernal, hchar, rfl⟩
  · exact ⟨hram, hcolor, hbasic, hkernal, hchar, hvic⟩

/-- Settles O10: the host's supply resets no storage but the VIC's cells, the stages around the CPU's write none, and
the CPU's writes a byte inside its storage. -/
theorem stepKeepsStorage : Obligations.StepKeepsStorage := by
  intro s t hs h
  obtain ⟨u, hstage, rfl⟩ := step_eq_next h
  have hbefore : StorageOk (beforeCpu (cycleIn s) (supplied s)) := by
    simpa [StorageOk] using supplied_keepsStorage hs
  have hu : StorageOk u := by
    obtain ⟨rfl, -⟩ | ⟨hcycle, -⟩ := stageD_cases hstage
    · exact hbefore
    · exact cpuCycle_keepsStorage hcycle hbefore
  simpa [StorageOk] using hu

/-! ## The constants and the events -/

theorem SameFixed.refl (s : State) : SameFixed s s := ⟨rfl, rfl, rfl, rfl, rfl, rfl, rfl, rfl, rfl⟩

theorem SameFixed.trans {s t u : State} (h : SameFixed s t) (h' : SameFixed t u) : SameFixed s u := by
  obtain ⟨hb, hk, hc, hp, hh, hi, hm, hs, hf⟩ := h
  obtain ⟨hb', hk', hc', hp', hh', hi', hm', hs', hf'⟩ := h'
  exact ⟨hb'.trans hb, hk'.trans hk, hc'.trans hc, hp'.trans hp, hh'.trans hh, hi'.trans hi, hm'.trans hm,
    hs'.trans hs, hf'.trans hf⟩

/-- What has been handed out stays, and at most one event is added. -/
def AddsAtMostOne {α : Type} (old new : List α) : Prop := ∃ e, new = old ++ e ∧ e.length ≤ 1

theorem AddsAtMostOne.refl {α : Type} (l : List α) : AddsAtMostOne l l := ⟨[], by simp⟩

theorem AddsAtMostOne.snoc {α : Type} (l : List α) (x : α) : AddsAtMostOne l (l ++ [x]) := ⟨[x], by simp⟩

/-- A write hands out at most one sound event (R94). -/
theorem busWrite_sound {a : Word} {v : Byte} {s t : State} (h : busWrite a v s = .next t) :
    AddsAtMostOne s.sound t.sound := by
  obtain ⟨⟨r, k⟩, -, rfl⟩ := busWrite_eq_next.1 h
  cases r
  case sid => exact .snoc _ _
  case port => simp only [targetWrite]; split <;> exact .refl _
  all_goals exact .refl _

theorem OneAccess.sound {s t : State} (h : OneAccess s t) : AddsAtMostOne s.sound t.sound := by
  obtain ⟨f, g, s1, ha, rfl⟩ := h
  cases ha with
  | none | draw => exact .refl _
  | read h =>
    have hsound : s1.sound = s.sound := by simp [busRead_frame h]
    simpa [hsound] using AddsAtMostOne.refl s.sound
  | write h =>
    have h1 : AddsAtMostOne (mapCpu f s).sound s1.sound := busWrite_sound h
    exact h1

theorem cpuCycle_fixed {s t : State} (h : cpuCycle s = .next t) : SameFixed s t := by
  obtain h1 | ⟨f, a, v, u, hread, h1⟩ := cpuCycle_accesses h
  · exact h1.fixed
  · exact (busRead_fixed (s := mapCpu f s) hread).trans h1.fixed

theorem cpuCycle_sound {s t : State} (h : cpuCycle s = .next t) : AddsAtMostOne s.sound t.sound := by
  obtain h1 | ⟨f, a, v, u, hread, h1⟩ := cpuCycle_accesses h
  · exact h1.sound
  · have hsound : u.sound = s.sound := by simp [busRead_frame hread]
    exact hsound ▸ h1.sound

/-- The end of a frame, and nothing else, is signalled (R432). -/
theorem afterCpu_frames (s : State) : AddsAtMostOne s.frames (afterCpu s).frames := by
  have hframes : (afterCpu s).frames = if frameEnds s.params s.vic then s.frames ++ [s.mcycle] else s.frames := rfl
  rw [hframes]
  split
  · exact .snoc _ _
  · exact .refl _

/-- What the host's supply leaves alone, reset or not. -/
theorem supplied_fixed (s : State) :
    SameFixed { s with inputs := s.inputs.tail, host := (cycleIn s).held.getD s.host } (supplied s)
      ∧ (supplied s).sound = s.sound := by
  obtain h | h := supplied_cases s <;> rw [h] <;> simp [SameFixed, applyReset]

/-- Settles O14: the stages around the CPU's touch none of it but the counter, the snapshot and the frame events, and
the CPU's only the sound events. -/
theorem stepConstants : Obligations.StepConstants := by
  intro s t h
  obtain ⟨u, hstage, rfl⟩ := step_eq_next h
  obtain ⟨⟨hbasic, hkernal, hchar, hparams, hhost, hinputs, hmcycle, -, hframes⟩, hsound⟩ := supplied_fixed s
  generalize supplied s = s0 at *
  have hcpu : SameFixed (beforeCpu (cycleIn s) s0) u ∧ AddsAtMostOne s0.sound u.sound := by
    obtain ⟨rfl, -⟩ | ⟨hcycle, -⟩ := stageD_cases hstage
    · exact ⟨.refl _, .refl _⟩
    · exact ⟨cpuCycle_fixed hcycle, (cpuCycle_sound hcycle : AddsAtMostOne (beforeCpu (cycleIn s) s0).sound u.sound)⟩
  obtain ⟨⟨hbasic', hkernal', hchar', hparams', hhost', hinputs', hmcycle', hsnapshot', hframes'⟩, hsound'⟩ := hcpu
  have hsnapshot : (beforeCpu (cycleIn s) s0).snapshot = snapshotOf s.mcycle s0.vic := by
    rw [beforeCpu_snapshot, hmcycle]
  exact ⟨hbasic'.trans hbasic, hkernal'.trans hkernal, hchar'.trans hchar, hparams'.trans hparams,
    congrArg (· + 1) (hmcycle'.trans hmcycle), hsnapshot'.trans hsnapshot, hinputs'.trans hinputs,
    hhost'.trans hhost, hsound ▸ hsound', (hframes'.trans hframes) ▸ afterCpu_frames u⟩

end Sys2Proof.Machine
end

section
/-! Which flags and registers a step writes, by what the CPU executes (R41 to R46). -/

namespace Sys2Proof.Machine

/-! ## The CPU of a step -/

/-- Where no reset comes first, a step is the CPU's cycle from a state with the same CPU, and then the lines are
latched; where the cycle is stolen or the CPU halted, it is the latching alone. -/
theorem step_cpu {s t : State} (hres : NoReset s) (h : step s = .next t) :
    ∃ b u, b.cpu = s.cpu
      ∧ t.cpu = { u.cpu with
          irqLatch := t.cpu.irqLatch, nmiPending := t.cpu.nmiPending, nmiPrev := t.cpu.nmiPrev }
      ∧ (u = b ∨ (cpuCycle b = .next u ∧ stalls (supplied s) = false)) := by
  obtain ⟨u, hstage, rfl⟩ := step_eq_next h
  have hcpu : (supplied s).cpu = s.cpu := by rw [supplied_noReset hres]
  refine ⟨beforeCpu (cycleIn s) (supplied s), u, hcpu, rfl, ?_⟩
  exact (stageD_cases hstage).imp And.left fun ⟨hcycle, hstall, _⟩ => ⟨hcycle, hstall⟩

/-- A step writes the pieces of what the CPU executes alone, and a stolen one none; the pending NMI apart. -/
theorem step_keeps {s t : State} (hres : NoReset s) (h : step s = .next t) :
    ∃ u : Cpu, Keeps (seqWrites s.cpu.seq) s.cpu u ∧ (stalls (supplied s) = true → u = s.cpu)
      ∧ t.cpu = { u with
          irqLatch := t.cpu.irqLatch, nmiPending := t.cpu.nmiPending, nmiPrev := t.cpu.nmiPrev } := by
  obtain ⟨b, u, hb, ht, rfl | ⟨hcycle, hstall⟩⟩ := step_cpu hres h
  · exact ⟨u.cpu, hb ▸ Keeps.refl _ _, fun _ => hb, ht⟩
  · exact ⟨u.cpu, hb ▸ cpuCycle_keeps hcycle, fun hs => by simp [hs] at hstall, ht⟩

/-- What executes when a piece other than PC and the halt is written. -/
theorem mem_seqWrites {p : Piece} {q : Seq} (hp : p ∉ [Piece.pc, .jammed]) (h : p ∈ seqWrites q) :
    (∃ op, q = .instr op ∧ p ∈ (rowProfile (rowOf op)).writes)
      ∨ ((q = .irqSeq ∨ q = .nmiSeq) ∧ p ∈ entryProfile.writes) ∨ (q = .resetSeq ∧ p ∈ resetProfile.writes) := by
  simp only [List.mem_cons, List.not_mem_nil, or_false, not_or] at hp
  simp only [seqWrites, List.mem_cons, hp.1, hp.2, false_or] at h
  cases q with
  | boundary | handler => simp at h
  | instr op => exact .inl ⟨op, rfl, h⟩
  | irqSeq => exact .inr (.inl ⟨.inl rfl, h⟩)
  | nmiSeq => exact .inr (.inl ⟨.inr rfl, h⟩)
  | resetSeq => exact .inr (.inr ⟨rfl, h⟩)

/-- A piece that no sequence writes is written by instructions of the rows that write it. -/
theorem instr_of_mem_seqWrites {p : Piece} {q : Seq} {P : Mnem × Mode → Prop}
    (hp : p ∉ .pc :: .jammed :: (entryProfile.writes ++ resetProfile.writes))
    (hrows : ∀ rows ∈ opcodeRows, ∀ r ∈ rows, p ∈ (rowProfile r).writes → P r) (h : p ∈ seqWrites q) :
    ∃ op, q = .instr op ∧ P (rowOf op) := by
  simp only [List.mem_cons, List.mem_append, not_or] at hp
  obtain ⟨hpc, hjam, hentry, hreset⟩ := hp
  obtain ⟨op, hq, hw⟩ | ⟨-, hw⟩ | ⟨-, hw⟩ := mem_seqWrites (by simp [hpc, hjam]) h
  · exact ⟨op, hq, rowOf_forall hrows op hw⟩
  · exact absurd hw hentry
  · exact absurd hw hreset

/-- The same, for a table of mnemonics. -/
theorem mnem_of_mem_seqWrites {p : Piece} {q : Seq} {ms : List Mnem}
    (hp : p ∉ .pc :: .jammed :: (entryProfile.writes ++ resetProfile.writes))
    (hrows : ∀ rows ∈ opcodeRows, ∀ r ∈ rows, p ∈ (rowProfile r).writes → r.1 ∈ ms) (h : p ∈ seqWrites q) :
    ∃ op, q = .instr op ∧ (rowOf op).1 ∈ ms := instr_of_mem_seqWrites hp hrows h

/-! ## The I flag in the sequences -/

/-- The interrupt entry changes I in T6 alone, and sets it (R180). -/
theorem interruptCycle_i {vec : State → Word} {s t : State} (h : interruptCycle vec s = .next t)
    (hi : t.cpu.i ≠ s.cpu.i) : s.cpu.t = 6 ∧ t.cpu.i = true := by
  have hpush {v : Byte} {g : Cpu → Cpu} (hg : ∀ c, (g c).i = c.i)
      (h : writeCycle (stackAddr s.cpu.sp) v (fun s' => nextCycle (mapCpu g s')) s = .next t) :
      t.cpu.i = s.cpu.i := by
    obtain ⟨s1, hwrite, rfl⟩ := writeCycle_eq_next.1 h
    simp [hg, (busWrite_frame hwrite).1]
  unfold interruptCycle at h
  split at h
  · obtain ⟨v, s1, hread, rfl⟩ := dummyRead_eq_next.1 h
    exact absurd (by simp [(busRead_frame hread).1]) hi
  · unfold entryCycle at h
    split at h
    · exact absurd (hpush (g := decSp) (fun _ => rfl) h) hi
    · exact absurd (hpush (g := decSp) (fun _ => rfl) h) hi
    · exact absurd (hpush (g := fun c => { decSp c with ea := vec s }) (fun _ => rfl) h) hi
    next ht =>
      obtain ⟨v, s1, -, rfl⟩ := readCycle_eq_next.1 h
      exact ⟨ht, rfl⟩
    · obtain ⟨v, s1, hread, rfl⟩ := readCycle_eq_next.1 h
      exact absurd (by simp [(busRead_frame hread).1]) hi

/-- So does the reset sequence (R414). -/
theorem resetCycle_i {s t : State} (h : resetCycle s = .next t) (hi : t.cpu.i ≠ s.cpu.i) :
    s.cpu.t = 6 ∧ t.cpu.i = true := by
  have hread {a : Word} {k : Byte → State → State} (h : readCycle a k s = .next t)
      (hk : ∀ v s1, (k v s1).cpu.i = s1.cpu.i) : t.cpu.i = s.cpu.i := by
    obtain ⟨v, s1, hread, rfl⟩ := readCycle_eq_next.1 h
    rw [hk, (busRead_frame hread).1]
  unfold resetCycle at h
  split at h
  case h_6 ht =>
    obtain ⟨v, s1, -, rfl⟩ := readCycle_eq_next.1 h
    exact ⟨ht, rfl⟩
  all_goals exact absurd (hread h fun _ _ => rfl) hi

/-- I is set in T6 of a sequence, and changed by it in no other cycle. -/
theorem cpuCycle_sequence_i {s t : State}
    (hq : s.cpu.seq = .irqSeq ∨ s.cpu.seq = .nmiSeq ∨ s.cpu.seq = .resetSeq) (h : cpuCycle s = .next t)
    (hi : t.cpu.i ≠ s.cpu.i) : s.cpu.t = 6 ∧ t.cpu.i = true := by
  unfold cpuCycle at h
  obtain hq | hq | hq := hq <;> simp only [hq] at h
  · exact interruptCycle_i h hi
  · exact interruptCycle_i h hi
  · exact resetCycle_i h hi

/-- I is written by the instructions whose rows write it, or set in T6 of a sequence. -/
theorem step_i {s t : State} {ms : List Mnem} (hres : NoReset s) (h : step s = .next t)
    (hrows : ∀ rows ∈ opcodeRows, ∀ r ∈ rows, Piece.i ∈ (rowProfile r).writes → r.1 ∈ ms)
    (hi : t.cpu.i ≠ s.cpu.i) :
    (∃ op, s.cpu.seq = .instr op ∧ (rowOf op).1 ∈ ms)
      ∨ ((s.cpu.seq = .irqSeq ∨ s.cpu.seq = .nmiSeq ∨ s.cpu.seq = .resetSeq) ∧ s.cpu.t = 6 ∧ t.cpu.i = true) := by
  obtain ⟨b, u, hb, ht, hcycle⟩ := step_cpu hres h
  have hti : t.cpu.i = u.cpu.i := by rw [ht]
  rw [hti, ← hb] at hi ⊢
  obtain rfl | ⟨hcycle, -⟩ := hcycle
  · exact absurd rfl hi
  obtain ⟨-, -, -, -, -, -, -, hkeep, -⟩ := cpuCycle_keeps hcycle
  obtain ⟨op, hq, hw⟩ | ⟨hq, -⟩ | ⟨hq, -⟩ := mem_seqWrites (by decide) (not_imp_comm.1 hkeep hi)
  · exact .inl ⟨op, hq, rowOf_forall hrows op hw⟩
  · have hseq : b.cpu.seq = .irqSeq ∨ b.cpu.seq = .nmiSeq ∨ b.cpu.seq = .resetSeq := hq.imp_right .inl
    exact .inr ⟨hseq, cpuCycle_sequence_i hseq hcycle hi⟩
  · have hseq : b.cpu.seq = .irqSeq ∨ b.cpu.seq = .nmiSeq ∨ b.cpu.seq = .resetSeq := .inr (.inr hq)
    exact .inr ⟨hseq, cpuCycle_sequence_i hseq hcycle hi⟩

/-- Settles O16: the tables of R46 name every row of R189 whose profile writes the flag. -/
theorem flagWriters : Obligations.FlagWriters := by
  intro s t hres h
  obtain ⟨u, ⟨-, -, -, -, -, hc, hz, hi, hd, hv, hn, -⟩, hidle, ht⟩ := step_keeps hres h
  have htc : t.cpu.c = u.c := by rw [ht]
  have htz : t.cpu.z = u.z := by rw [ht]
  have hti : t.cpu.i = u.i := by rw [ht]
  have htd : t.cpu.d = u.d := by rw [ht]
  have htv : t.cpu.v = u.v := by rw [ht]
  have htn : t.cpu.n = u.n := by rw [ht]
  refine ⟨?_, fun hne => ?_, fun hne => ?_, fun hne => ?_, step_i hres h (by decide), fun hstall => ?_⟩
  · rintro (hne | hne)
    · exact mnem_of_mem_seqWrites (by decide) (by decide) (not_imp_comm.1 hn (htn ▸ hne))
    · exact mnem_of_mem_seqWrites (by decide) (by decide) (not_imp_comm.1 hz (htz ▸ hne))
  · exact mnem_of_mem_seqWrites (by decide) (by decide) (not_imp_comm.1 hc (htc ▸ hne))
  · exact mnem_of_mem_seqWrites (by decide) (by decide) (not_imp_comm.1 hv (htv ▸ hne))
  · exact mnem_of_mem_seqWrites (by decide) (by decide) (not_imp_comm.1 hd (htd ▸ hne))
  · simp [htn, htz, htc, htv, htd, hti, hidle hstall]

/-- Settles O17: the tables of R41 to R43 name every row of R189 whose profile writes the register; PC is written in
CPU cycles alone. -/
theorem registerWriters : Obligations.RegisterWriters := by
  intro s t hres h
  obtain ⟨u, ⟨ha, hx, hy, hsp, -⟩, hidle, ht⟩ := step_keeps hres h
  have hta : t.cpu.a = u.a := by rw [ht]
  have htx : t.cpu.x = u.x := by rw [ht]
  have hty : t.cpu.y = u.y := by rw [ht]
  have htsp : t.cpu.sp = u.sp := by rw [ht]
  have htpc : t.cpu.pc = u.pc := by rw [ht]
  refine ⟨fun hne => ?_, fun hne => ?_, fun hne => ?_, fun hne => ?_, fun hstall => ?_⟩
  · exact instr_of_mem_seqWrites (P := fun r => r.1 ∈ _ ∨ r.2 = .acc) (by decide) (by decide)
      (not_imp_comm.1 ha (hta ▸ hne))
  · exact mnem_of_mem_seqWrites (by decide) (by decide) (not_imp_comm.1 hx (htx ▸ hne))
  · exact mnem_of_mem_seqWrites (by decide) (by decide) (not_imp_comm.1 hy (hty ▸ hne))
  · obtain ⟨op, hq, hw⟩ | ⟨hq, -⟩ | ⟨hq, -⟩ := mem_seqWrites (by decide) (not_imp_comm.1 hsp (htsp ▸ hne))
    · refine .inl ⟨op, hq, ?_⟩
      exact rowOf_forall (P := fun r => Piece.sp ∈ (rowProfile r).writes → r.1 ∈ _) (by decide) op hw
    · exact .inr (hq.imp_right .inl)
    · exact .inr (.inr (.inr hq))
  · rw [htpc, hidle hstall]

end Sys2Proof.Machine
end

section
/-! The sequencer (R49, R188) and the polls (R401 to R413), from the progress each cycle makes. -/

namespace Sys2Proof.Machine

/-! ## The cycles of a row -/

/-- The last CPU cycle that an opcode's counts of R188 allow. -/
def lastOf (op : Byte) : Nat := baseCycles op + extraCycles op

/-- The map, checked entry by entry: an opcode's cycles lie within T8; but for JAM it has a second cycle, and its
template none after the published counts, and it does not halt; after an operand fetch on which it does not operate it
has another; in a cycle that is no fetch, only a branch and BRK can end with no poll of their own; and a branch operates
on the fetch of T2 and has no other. -/
theorem row_cycles (op : Byte) :
    lastOf op ≤ 8
      ∧ ((rowOf op).1 ≠ .jam → 2 ≤ lastOf op ∧ (rowProfile (rowOf op)).last ≤ lastOf op
          ∧ Piece.jammed ∉ (rowProfile (rowOf op)).writes)
      ∧ (∀ t ∈ [2, 3, 6], (fetchAt op t).isSome = true → operatesOnFetch op t = false → t + 1 ≤ lastOf op)
      ∧ (Kind.of (rowOf op).1 ≠ .branch → Kind.of (rowOf op).1 ≠ .brk → ∀ t ∈ List.range' 2 7, t ≤ lastOf op →
          fetchAt op t = none → (rowProfile (rowOf op)).bare t = false)
      ∧ (Kind.of (rowOf op).1 = .branch →
          fetchAt op 2 = some .first ∧ operatesOnFetch op 2 = true ∧ fetchAt op 3 = none ∧ fetchAt op 4 = none) := by
  unfold lastOf baseCycles extraCycles fetchAt operatesOnFetch lengthOf
  obtain ⟨rows, hrows, hr⟩ := rowOf_mem_rows op
  generalize rowOf op = r at hr ⊢
  revert r
  revert rows
  decide

/-- After an operand fetch on which the instruction does not operate, there is another cycle. -/
theorem fetch_before_last {op : Byte} {t : Nat} {f : Fetch} (h : fetchAt op t = some f)
    (hop : operatesOnFetch op t = false) : t + 1 ≤ lastOf op := by
  obtain ⟨-, -, hfetch, -⟩ := row_cycles op
  have hmem : t ∈ [2, 3, 6] := by
    unfold fetchAt at h
    split_ifs at h <;> simp_all
  exact hfetch t hmem (by simp [h]) hop

/-- In a cycle that is no fetch, only a branch and BRK can end with no poll of their own. -/
theorem bare_of_no_fetch {op : Byte} {t : Nat} (hbranch : Kind.of (rowOf op).1 ≠ .branch)
    (hbrk : Kind.of (rowOf op).1 ≠ .brk) (h2 : 2 ≤ t) (hlast : t ≤ lastOf op) (h : fetchAt op t = none) :
    (rowProfile (rowOf op)).bare t = false := by
  obtain ⟨h8, -, -, hbare, -⟩ := row_cycles op
  exact hbare hbranch hbrk t (by simp only [List.mem_range'_1]; omega) hlast h

theorem rowProfile_branch {r : Mnem × Mode} (h : Kind.of r.1 = .branch) : rowProfile r = branchProfile := by
  obtain ⟨mn, md⟩ := r
  cases mn
  case bpl | bmi | bvc | bvs | bcc | bcs | bne | beq => rfl
  all_goals cases h

/-! ## The sequencer -/

/-- A cycle that makes its profile's progress in a sequence that does not halt leaves a cycle that a sequence has. -/
theorem Cycle.sequencerOk {p : Profile} {o : Option Word} {s t : State} (h : Cycle p o s t)
    (hjam : s.cpu.jammed = false) (hw : Piece.jammed ∉ p.writes)
    (hnext : t.cpu.seq = s.cpu.seq → t.cpu.jammed = false → t.cpu.t = s.cpu.t + 1 → s.cpu.t < p.last → SequencerOk t) :
    SequencerOk t := by
  obtain ⟨⟨-, -, -, -, -, -, -, -, -, -, -, -, hkeep, -⟩, -, hprogress⟩ := h
  have hrun : t.cpu.jammed = false := (hkeep hw).trans hjam
  cases hprogress with
  | goesOn hlast hseq ht => exact hnext hseq hrun ht hlast
  | polled _ hseq ht => simp [SequencerOk, hseq, hrun, ht]
  | bare _ hseq ht => obtain hseq | hseq := hseq <;> simp [SequencerOk, hseq, hrun, ht]
  | halts _ _ hw' => exact absurd hw' hw

theorem opcodeCycle_sequencerOk {s t : State} (hjam : s.cpu.jammed = false) (h : opcodeCycle s = .next t) :
    SequencerOk t := by
  obtain ⟨op, s1, hread, rfl⟩ := opcodeCycle_eq_next h
  have hcpu : s1.cpu = s.cpu := (busRead_frame hread).1
  by_cases hrow : (rowOf op).1 = .jam
  · simp [SequencerOk, hrow]
  · obtain ⟨-, hrows, -⟩ := row_cycles op
    simpa [SequencerOk, hrow, hcpu, hjam, lastOf] using (hrows hrow).1

/-- A CPU in the cycle `c.t` of an instruction that is no JAM. -/
structure InInstr (op : Byte) (c : Cpu) : Prop where
  seq : c.seq = .instr op
  running : c.jammed = false
  row : (rowOf op).1 ≠ .jam
  first : 2 ≤ c.t
  last : c.t ≤ lastOf op

theorem InInstr.sequencerOk {op : Byte} {s : State} (h : InInstr op s.cpu) : SequencerOk s := by
  simpa [SequencerOk, h.seq, h.row, h.running, h.first, lastOf] using h.last

theorem SequencerOk.inInstr {op : Byte} {s : State} (h : SequencerOk s) (hq : s.cpu.seq = .instr op)
    (hjam : s.cpu.jammed = false) : InInstr op s.cpu := by
  have hrow : (rowOf op).1 ≠ .jam := fun hrow => by simp [SequencerOk, hq, hrow, hjam] at h
  simp only [SequencerOk, hq, if_neg hrow] at h
  exact ⟨hq, hjam, hrow, h.2.1, h.2.2⟩

/-- A fetch does not move the sequencer. -/
theorem InInstr.latchOperand {op : Byte} {c : Cpu} (h : InInstr op c) (f : Fetch) (v : Byte) :
    InInstr op (latchOperand f v c) := by
  cases f <;> exact ⟨h.seq, h.running, h.row, h.first, h.last⟩

theorem exec_sequencerOk {op : Byte} {i : Instr} {s t : State} (hin : InInstr op s.cpu)
    (hi : profileOf i = rowProfile (rowOf op)) (h : exec i s = .next t) : SequencerOk t := by
  obtain ⟨-, hrow, -⟩ := row_cycles op
  obtain ⟨-, hlast, hw⟩ := hrow hin.row
  have hcycle := exec_cycle h
  rw [hi] at hcycle
  refine hcycle.sequencerOk hin.running hw fun hseq hjam ht hlt => ?_
  have hfirst := hin.first
  exact InInstr.sequencerOk ⟨hseq.trans hin.seq, hjam, hin.row, by omega, by omega⟩

theorem instrCycle_sequencerOk {op : Byte} {s t : State} (hin : InInstr op s.cpu) (h : instrCycle op s = .next t) :
    SequencerOk t := by
  cases instrCycle_cases h with
  | fetches f v s1 hf hop hread ht =>
    subst ht
    have hlatch : InInstr op (latchOperand f v s1.cpu) := by
      rw [(busRead_frame hread).1]
      exact hin.latchOperand f v
    have ht : (latchOperand f v s1.cpu).t = s.cpu.t := by
      rw [(latchOperand_sequencer f v s1.cpu).2.1, (busRead_frame hread).1]
    refine InInstr.sequencerOk ⟨hlatch.seq, hlatch.running, hlatch.row, Nat.le_succ_of_le hlatch.first, ?_⟩
    simpa [ht] using fetch_before_last hf hop
  | operates f v s1 i _ _ hread hi hexec =>
    have hpoll : InInstr op (poll s).cpu := ⟨hin.seq, hin.running, hin.row, hin.first, hin.last⟩
    refine exec_sequencerOk (s := mapCpu (latchOperand f v) s1) ?_ hi hexec
    rw [mapCpu_cpu, (busRead_frame hread).1]
    exact hpoll.latchOperand f v
  | executes i _ hi hexec => exact exec_sequencerOk hin hi hexec

/-- A cycle of an interrupt sequence leaves a cycle that it has. -/
theorem interruptCycle_sequencerOk {vec : State → Word} {s t : State}
    (hq : s.cpu.seq = .irqSeq ∨ s.cpu.seq = .nmiSeq) (hjam : s.cpu.jammed = false) (h1 : 1 ≤ s.cpu.t)
    (h : interruptCycle vec s = .next t) : SequencerOk t := by
  refine (interruptCycle_cycle h).sequencerOk hjam (by decide) fun hseq hjam ht hlast => ?_
  have h7 : s.cpu.t < 7 := hlast
  obtain hq | hq := hq <;> simp only [SequencerOk, hseq, hq, hjam, ht, true_and] <;> omega

theorem resetCycle_sequencerOk {s t : State} (hq : s.cpu.seq = .resetSeq) (hjam : s.cpu.jammed = false)
    (h : resetCycle s = .next t) : SequencerOk t := by
  refine (resetCycle_cycle h).sequencerOk hjam (by decide) fun hseq hjam ht hlast => ?_
  have h7 : s.cpu.t < 7 := hlast
  simp only [SequencerOk, hseq, hq, hjam, ht, true_and]
  omega

/-- A CPU cycle leaves the sequencer at a cycle that its instruction or sequence has. -/
theorem cpuCycle_sequencerOk {s t : State} (hs : SequencerOk s) (hjam : s.cpu.jammed = false)
    (h : cpuCycle s = .next t) : SequencerOk t := by
  unfold cpuCycle at h
  split at h
  next hq =>
    split_ifs at h
    · exact interruptCycle_sequencerOk (s := beginSeq .nmiSeq s) (.inr rfl) hjam (Nat.le_refl 1) h
    · exact interruptCycle_sequencerOk (s := beginSeq .irqSeq s) (.inl rfl) hjam (Nat.le_refl 1) h
    · exact opcodeCycle_sequencerOk hjam h
  next => exact opcodeCycle_sequencerOk hjam h
  next op hq => exact instrCycle_sequencerOk (hs.inInstr hq hjam) h
  next hq =>
    simp only [SequencerOk, hq] at hs
    exact interruptCycle_sequencerOk (.inl hq) hjam (by omega) h
  next hq =>
    simp only [SequencerOk, hq] at hs
    exact interruptCycle_sequencerOk (.inr hq) hjam (by omega) h
  next hq => exact resetCycle_sequencerOk hq hjam h

theorem sequencerOk_supplied {s : State} (hs : SequencerOk s) : SequencerOk (supplied s) := by
  obtain h | h := supplied_cases s <;> rw [h]
  · simp [SequencerOk, applyReset, applyCpuReset]
  · exact hs

/-- Settles O12: a reset starts its own sequence, the stages around the CPU's leave the sequencer alone, and the CPU's
moves it on within its instruction or sequence, or to a boundary. -/
theorem stepKeepsSequencer : Obligations.StepKeepsSequencer := by
  intro s t hs h
  obtain ⟨u, hstage, rfl⟩ := step_eq_next h
  have hbefore : SequencerOk (beforeCpu (cycleIn s) (supplied s)) := sequencerOk_supplied hs
  have hu : SequencerOk u := by
    obtain ⟨rfl, -⟩ | ⟨hcycle, -, hjam⟩ := stageD_cases hstage
    · exact hbefore
    · exact cpuCycle_sequencerOk hbefore hjam hcycle
  exact hu

/-! ## The polls -/

/-- Where the profile does not poll, the polls stand. -/
theorem Progress.kept {p : Profile} {c d : Cpu} (h : Progress p c d) (hp : p.polls c.t = false) :
    d.pollIrq = c.pollIrq ∧ d.pollNmi = c.pollNmi := by
  cases h with
  | goesOn _ _ _ hirq hnmi => exact ⟨hirq, hnmi⟩
  | polled hp' => simp [hp] at hp'
  | bare _ _ _ hirq hnmi => exact ⟨hirq, hnmi⟩
  | halts _ _ _ hirq hnmi => exact ⟨hirq, hnmi⟩

/-- The polls of `d` are taken from the lines and the I of `c` (R401 (2)). -/
def Polled (c d : Cpu) : Prop := d.pollIrq = (c.irqLatch && !c.i) ∧ d.pollNmi = c.nmiPending

/-- A cycle that ends at a boundary where it cannot end with no poll of its own has polled. -/
theorem Progress.polled_of_boundary {p : Profile} {c d : Cpu} (h : Progress p c d) (hc : c.seq ≠ .boundary)
    (hd : d.seq = .boundary) (hb : p.bare c.t = false) : Polled c d := by
  cases h with
  | goesOn _ hseq => exact absurd (hseq.symm.trans hd) hc
  | polled _ _ _ hirq hnmi => exact ⟨hirq, hnmi⟩
  | bare hb' => simp [hb] at hb'
  | halts _ hseq => exact absurd (hseq.symm.trans hd) hc

/-- A cycle after a fetch that has polled makes the same poll, or leaves that one. -/
theorem polled_after_fetch {p : Profile} {f : Fetch} {v : Byte} {s s1 : State} {d : Cpu}
    (hcpu : s1.cpu = (poll s).cpu) (h : Progress p (mapCpu (latchOperand f v) s1).cpu d) : Polled s.cpu d := by
  have hlatched : Polled s.cpu (latchOperand f v (poll s).cpu)
      ∧ (latchOperand f v (poll s).cpu).irqLatch = s.cpu.irqLatch ∧ (latchOperand f v (poll s).cpu).i = s.cpu.i
      ∧ (latchOperand f v (poll s).cpu).nmiPending = s.cpu.nmiPending := by
    cases f <;> exact ⟨⟨rfl, rfl⟩, rfl, rfl, rfl⟩
  rw [mapCpu_cpu, hcpu] at h
  obtain ⟨⟨hirq', hnmi'⟩, hline, hi, hpending⟩ := hlatched
  cases h with
  | polled _ _ _ hirq hnmi => exact ⟨by rw [hirq, hline, hi], hnmi.trans hpending⟩
  | goesOn _ _ _ hirq hnmi => exact ⟨hirq.trans hirq', hnmi.trans hnmi'⟩
  | bare _ _ _ hirq hnmi => exact ⟨hirq.trans hirq', hnmi.trans hnmi'⟩
  | halts _ _ _ hirq hnmi => exact ⟨hirq.trans hirq', hnmi.trans hnmi'⟩

/-- The last cycle of an instruction but a branch and BRK has polled (R401 (3)). -/
theorem instrCycle_polled {op : Byte} {s t : State} (hs : SequencerOk s) (hq : s.cpu.seq = .instr op)
    (hbranch : Kind.of (rowOf op).1 ≠ .branch) (hbrk : Kind.of (rowOf op).1 ≠ .brk) (hd : t.cpu.seq = .boundary)
    (h : instrCycle op s = .next t) : Polled s.cpu t.cpu := by
  cases instrCycle_cases h with
  | fetches f v s1 _ _ hread ht =>
    subst ht
    have hseq : (latchOperand f v s1.cpu).seq = .instr op := by
      rw [(latchOperand_sequencer f v s1.cpu).1, (busRead_frame hread).1, hq]
    exact absurd (hseq.symm.trans hd) (by simp)
  | operates f v s1 i _ _ hread _ hexec => exact polled_after_fetch (busRead_frame hread).1 (exec_cycle hexec).progress
  | executes i hf hi hexec =>
    refine (exec_cycle hexec).progress.polled_of_boundary (by simp [hq]) hd ?_
    rw [hi]
    by_cases hrow : (rowOf op).1 = .jam
    · rw [rowProfile, hrow]
      rfl
    · simp only [SequencerOk, hq, if_neg hrow] at hs
      exact bare_of_no_fetch hbranch hbrk hs.2.1 hs.2.2 hf

/-- A branch polls in T2, on its fetch, and in T4 (R408). -/
theorem branch_polled {op : Byte} {s t : State} (hbranch : Kind.of (rowOf op).1 = .branch)
    (ht : s.cpu.t = 2 ∨ s.cpu.t = 4) (h : instrCycle op s = .next t) : Polled s.cpu t.cpu := by
  obtain ⟨-, -, -, -, hrow⟩ := row_cycles op
  obtain ⟨hfetch, hoperates, -, hnone⟩ := hrow hbranch
  cases instrCycle_cases h with
  | fetches f v s1 hf hop => obtain ht | ht := ht <;> simp_all
  | operates f v s1 i _ _ hread _ hexec => exact polled_after_fetch (busRead_frame hread).1 (exec_cycle hexec).progress
  | executes i hf hi hexec =>
    have ht : s.cpu.t = 4 := ht.resolve_left fun ht => by simp [ht, hfetch] at hf
    have hprogress := (exec_cycle hexec).progress
    rw [hi, rowProfile_branch hbranch] at hprogress
    cases hprogress with
    | goesOn hlast => exact absurd hlast (by simp [branchProfile, ht])
    | polled _ _ _ hirq hnmi => exact ⟨hirq, hnmi⟩
    | bare hb => simp [branchProfile, ht] at hb
    | halts _ _ hw => exact absurd hw (by decide)

/-- A cycle that is one of `exec`'s leaves the polls where its row's profile does not poll. -/
theorem instrCycle_kept {op : Byte} {s t : State} (hf : fetchAt op s.cpu.t = none)
    (hp : (rowProfile (rowOf op)).polls s.cpu.t = false) (h : instrCycle op s = .next t) :
    t.cpu.pollIrq = s.cpu.pollIrq ∧ t.cpu.pollNmi = s.cpu.pollNmi := by
  cases instrCycle_cases h with
  | fetches f v s1 hf' => simp [hf] at hf'
  | operates f v s1 i hf' => simp [hf] at hf'
  | executes i _ hi hexec => exact (exec_cycle hexec).progress.kept (hi ▸ hp)

theorem opcodeCycle_kept {s t : State} (h : opcodeCycle s = .next t) :
    t.cpu.pollIrq = s.cpu.pollIrq ∧ t.cpu.pollNmi = s.cpu.pollNmi := by
  obtain ⟨op, s1, hread, rfl⟩ := opcodeCycle_eq_next h
  simp [(busRead_frame hread).1]

/-- The T1 of a boundary leaves the polls, whatever it starts (R401 (4)). -/
theorem boundary_kept {s t : State} (hq : s.cpu.seq = .boundary ∨ s.cpu.seq = .handler) (h : cpuCycle s = .next t) :
    t.cpu.pollIrq = s.cpu.pollIrq ∧ t.cpu.pollNmi = s.cpu.pollNmi := by
  unfold cpuCycle at h
  obtain hq | hq := hq <;> simp only [hq] at h
  · split_ifs at h
    · exact (interruptCycle_cycle h).progress.kept rfl
    · exact (interruptCycle_cycle h).progress.kept rfl
    · exact opcodeCycle_kept h
  · exact opcodeCycle_kept h

/-- Settles O37: the polls that each cycle makes or keeps, from its progress. -/
theorem pollRule : Obligations.PollRule := by
  intro s t hs h
  have hinstr {op : Byte} (hq : s.cpu.seq = .instr op) : instrCycle op s = .next t := by
    simpa only [cpuCycle, hq] using h
  refine ⟨fun op hq hbranch hbrk hd => instrCycle_polled hs hq hbranch hbrk hd (hinstr hq),
    fun op hq hbranch => ⟨fun ht => branch_polled hbranch ht (hinstr hq), fun ht => ?_⟩, ?_⟩
  · obtain ⟨-, -, -, -, hrow⟩ := row_cycles op
    obtain ⟨-, -, hnone, -⟩ := hrow hbranch
    exact instrCycle_kept (ht ▸ hnone) (by simp [rowProfile_branch hbranch, branchProfile, ht]) (hinstr hq)
  · rintro (hq | hq | hq | hq | hq)
    · exact (interruptCycle_cycle (by simpa only [cpuCycle, hq] using h)).progress.kept rfl
    · exact (interruptCycle_cycle (by simpa only [cpuCycle, hq] using h)).progress.kept rfl
    · exact (resetCycle_cycle (by simpa only [cpuCycle, hq] using h)).progress.kept rfl
    · have hf : fetchAt 0x00 s.cpu.t = none := by
        have hlen : lengthOf 0#8 = 1 := by decide
        simp [fetchAt, hlen]
      exact instrCycle_kept hf rfl (hinstr hq)
    · exact boundary_kept hq h

end Sys2Proof.Machine
end

section
/-! What the results of ADC and SBC mean (R240 to R243), in integers and in decimal digits. -/

namespace Sys2Proof.Machine

/-- Bit 7 of a byte is its sign. -/
theorem byte_sign (a : Byte) : a.getLsbD 7 = decide (128 ≤ a.toNat) := by
  have hmsb : a.getLsbD 7 = a.msb := rfl
  rw [hmsb, BitVec.msb_eq_decide]

/-- A byte as a signed number. -/
theorem byte_toInt (a : Byte) : a.toInt = if 128 ≤ a.toNat then (a.toNat : Int) - 256 else a.toNat := by
  rw [BitVec.toInt_eq_toNat_cond]
  split_ifs <;> omega

/-- The V of a sum, from the signs of the operands and the result (R240). -/
theorem overflow_add_iff {a m r : Byte} {k : Nat} (hk : k ≤ 1) (hr : r.toNat = (a.toNat + m.toNat + k) % 256) :
    (~~~(a ^^^ m) &&& (a ^^^ r)).getLsbD 7 = true ↔ (a.toInt + m.toInt + k < -128 ∨ 127 < a.toInt + m.toInt + k) := by
  have ha := a.isLt
  have hm := m.isLt
  rw [BitVec.getLsbD_and, BitVec.getLsbD_not, BitVec.getLsbD_xor, BitVec.getLsbD_xor]
  simp only [byte_sign, byte_toInt]
  by_cases ha7 : 128 ≤ a.toNat <;> by_cases hm7 : 128 ≤ m.toNat <;> by_cases hr7 : 128 ≤ r.toNat <;>
    simp [ha7, hm7, hr7] <;> omega

/-- The V of a difference (R242). -/
theorem overflow_sub_iff {a m r : Byte} {k : Nat} (hk : k ≤ 1) (hr : r.toNat = (a.toNat + 255 + k - m.toNat) % 256) :
    ((a ^^^ m) &&& (a ^^^ r)).getLsbD 7 = true
      ↔ (a.toInt - m.toInt - (1 - (k : Int)) < -128 ∨ 127 < a.toInt - m.toInt - (1 - (k : Int))) := by
  have ha := a.isLt
  have hm := m.isLt
  rw [BitVec.getLsbD_and, BitVec.getLsbD_xor, BitVec.getLsbD_xor]
  simp only [byte_sign, byte_toInt]
  by_cases ha7 : 128 ≤ a.toNat <;> by_cases hm7 : 128 ≤ m.toNat <;> by_cases hr7 : 128 ≤ r.toNat <;>
    simp [ha7, hm7, hr7] <;> omega

/-- The low digit of a byte. -/
theorem byte_and_low (a : Byte) : a.toNat &&& 0x0F = a.toNat % 16 := Nat.and_two_pow_sub_one_eq_mod _ 4

/-- The high digit of a byte, in place. -/
theorem byte_and_high (a : Byte) : a.toNat &&& 0xF0 = a.toNat / 16 * 16 := by
  revert a
  decide

theorem carry_le_one (b : Bool) : b.toNat ≤ 1 := Bool.toNat_le b

/-- The last two digits of a number of tens `h` and units `l`, packed. -/
theorem packed_digits {h l : Nat} (hh : h < 20) (hl : l < 10) :
    (10 * h + l) % 100 / 10 * 16 + (10 * h + l) % 10 = (if 10 ≤ h then h - 10 else h) * 16 + l := by
  split_ifs <;> omega

/-- The adjustment of R241 of the sum of two tens digits `d` and of two units digits and a carry `e`. -/
theorem decimal_sum {d e low t u : Nat} (hd : d ≤ 18) (he : e ≤ 19)
    (hlow : low = if 10 ≤ e then (e + 6) % 16 + 16 else e) (ht : t = 16 * d + low)
    (hu : u = if 160 ≤ t then t + 96 else t) :
    u % 256 = (10 * d + e) % 100 / 10 * 16 + (10 * d + e) % 10 ∧ (256 ≤ u ↔ 99 < 10 * d + e) := by
  by_cases hcarry : 10 ≤ e
  · have hlow : low = e + 6 := by rw [hlow, if_pos hcarry]; omega
    have hsum : 10 * d + e = 10 * (d + 1) + (e - 10) := by omega
    rw [hsum, packed_digits (by omega) (by omega)]
    split_ifs at hu ⊢ <;> omega
  · rw [if_neg hcarry] at hlow
    rw [packed_digits (by omega) (by omega)]
    split_ifs at hu ⊢ <;> omega

/-- The adjustment of R243 of the difference of two tens digits `d` and of two units digits and the borrow `e`. -/
theorem decimal_difference {d e low t u : Int} {n : Nat} (hd : -9 ≤ d ∧ d ≤ 9) (he : -10 ≤ e ∧ e ≤ 9)
    (hn : (n : Int) = 10 * d + e + 100) (hlow : low = if e < 0 then (e - 6) % 16 - 16 else e) (ht : t = 16 * d + low)
    (hu : u = if t < 0 then t - 96 else t) :
    (u % 256).toNat = n % 100 / 10 * 16 + n % 10 := by
  by_cases hborrow : e < 0
  · have hlow : low = e - 6 := by rw [hlow, if_pos hborrow]; omega
    have hdiff : n = 10 * (d + 9).toNat + (e + 10).toNat := by omega
    rw [hdiff, packed_digits (by omega) (by omega)]
    split_ifs at hu ⊢ <;> omega
  · rw [if_neg hborrow] at hlow
    have hdiff : n = 10 * (d + 10).toNat + e.toNat := by omega
    rw [hdiff, packed_digits (by omega) (by omega)]
    split_ifs at hu ⊢ <;> omega

section Decimal

variable {v : Byte} {c : Cpu} {x y : Nat}

/-- In decimal mode two valid numbers add up to the digits of their sum, carrying at 100 (R241). -/
theorem adcDecimal_digits (hx : x < 100) (hy : y < 100) (ha : c.a.toNat = x / 10 * 16 + x % 10)
    (hv : v.toNat = y / 10 * 16 + y % 10) :
    (adcDecimal v c).a.toNat = (x + y + c.c.toNat) % 100 / 10 * 16 + (x + y + c.c.toNat) % 10
      ∧ ((adcDecimal v c).c = true ↔ 99 < x + y + c.c.toNat) := by
  have hk := carry_le_one c.c
  have hnibble (n : Nat) : n &&& 0x0F = n % 16 := Nat.and_two_pow_sub_one_eq_mod _ 4
  have hlow : c.a.toNat % 16 + v.toNat % 16 = x % 10 + y % 10 := by omega
  have hhigh : c.a.toNat / 16 * 16 + v.toNat / 16 * 16 = 16 * (x / 10 + y / 10) := by omega
  have hsum : x + y + c.c.toNat = 10 * (x / 10 + y / 10) + (x % 10 + y % 10 + c.c.toNat) := by omega
  simp only [adcDecimal, byte_and_high, hnibble, hlow, hhigh, BitVec.toNat_ofNat, decide_eq_true_eq]
  rw [hsum]
  exact decimal_sum (by omega) (by omega) rfl rfl rfl

/-- And subtract to the digits of their difference, borrowing from 100 (R243). -/
theorem sbcDecimalResult_digits (hx : x < 100) (hy : y < 100) (ha : c.a.toNat = x / 10 * 16 + x % 10)
    (hv : v.toNat = y / 10 * 16 + y % 10) :
    (sbcDecimalResult c.a v c.c).toNat
      = (x + 99 + c.c.toNat - y) % 100 / 10 * 16 + (x + 99 + c.c.toNat - y) % 10 := by
  have hk := carry_le_one c.c
  have hlow : ((c.a.toNat % 16 : Nat) : Int) - (v.toNat % 16 : Nat) = (x % 10 : Nat) - (y % 10 : Nat) := by omega
  have hhigh : ((c.a.toNat / 16 * 16 : Nat) : Int) - (v.toNat / 16 * 16 : Nat)
      = 16 * ((x / 10 : Nat) - (y / 10 : Nat)) := by omega
  simp only [sbcDecimalResult, byte_and_low, byte_and_high, hlow, hhigh, BitVec.toNat_ofInt]
  exact decimal_difference (by omega) (by omega) (by omega) rfl rfl rfl

/-- The C of a decimal difference is the binary one: nothing was borrowed (R243). -/
theorem sbcBinary_c_digits (ha : c.a.toNat = x / 10 * 16 + x % 10)
    (hv : v.toNat = y / 10 * 16 + y % 10) : (sbcBinary v c).c = true ↔ y + 1 ≤ x + c.c.toNat := by
  have hk := carry_le_one c.c
  simp only [sbcBinary, decide_eq_true_eq]
  omega

end Decimal

/-- Settles O28: V from the signs, and the digits of the two decimal adjustments. -/
theorem arithmeticMeaning : Obligations.ArithmeticMeaning := by
  refine ⟨fun v c hd => ⟨?_, ?_⟩, fun v c x y hd hx hy ha hv => ⟨?_, ?_, ?_⟩⟩
  · simp only [adcOp, hd, Bool.false_eq_true, if_false, adcBinary]
    exact overflow_add_iff (carry_le_one _) (BitVec.toNat_ofNat _ _)
  · have hk := carry_le_one c.c
    have hv := v.isLt
    simp only [sbcOp, hd, Bool.false_eq_true, if_false, sbcBinary]
    refine overflow_sub_iff (carry_le_one _) ?_
    rw [BitVec.toNat_ofInt]
    omega
  · simp only [adcOp, hd, if_true]
    exact adcDecimal_digits hx hy ha hv
  · simp only [sbcOp, hd, if_true]
    exact sbcDecimalResult_digits hx hy ha hv
  · simp only [sbcOp, hd, if_true]
    exact sbcBinary_c_digits ha hv

end Sys2Proof.Machine
end

section
/-! The stack instructions and RTI cycle by cycle (R176, R179), and the byte `P(b)` (R47, R48). -/

namespace Sys2Proof.Machine

section Accesses

variable {a : Word} {v : Byte} {s s1 : State}

theorem readCycle_of_busRead (h : busRead a s = .next (v, s1)) (k : Byte → State → State) :
    readCycle a k s = .next (k v s1) := readCycle_eq_next.2 ⟨v, s1, h, rfl⟩

theorem lastRead_of_busRead (h : busRead a (poll s) = .next (v, s1)) (op : Byte → Cpu → Cpu) :
    lastRead a op s = .next (endInstr (mapCpu (op v) s1)) := lastRead_eq_next.2 ⟨v, s1, h, rfl⟩

theorem writeCycle_of_busWrite (h : busWrite a v s = .next s1) (k : State → State) :
    writeCycle a v k s = .next (k s1) := writeCycle_eq_next.2 ⟨s1, h, rfl⟩

end Accesses

/-- `P(b)` in numbers (R47). -/
theorem packP_toNat (b : Bool) (c : Cpu) :
    (packP b c).toNat = 128 * c.n.toNat + 64 * c.v.toNat + 32 + 16 * b.toNat + 8 * c.d.toNat + 4 * c.i.toNat
      + 2 * c.z.toNat + c.c.toNat := by
  unfold packP
  generalize c.n = n, c.v = v, c.d = d, c.i = i, c.z = z, c.c = cy
  revert b n v d i z cy
  decide

/-- Pulling a pushed byte gives the flags back (R48). -/
theorem unpackP_packP (b : Bool) (c d : Cpu) :
    unpackP (packP b c) d = { d with n := c.n, v := c.v, d := c.d, i := c.i, z := c.z, c := c.c } := by
  have hbits : (packP b c).getLsbD 7 = c.n ∧ (packP b c).getLsbD 6 = c.v ∧ (packP b c).getLsbD 3 = c.d
      ∧ (packP b c).getLsbD 2 = c.i ∧ (packP b c).getLsbD 1 = c.z ∧ (packP b c).getLsbD 0 = c.c := by
    unfold packP
    generalize c.n = n, c.v = v, c.d = d, c.i = i, c.z = z, c.c = cy
    revert b n v d i z cy
    decide
  obtain ⟨hn, hv, hd, hi, hz, hc⟩ := hbits
  simp only [unpackP, hn, hv, hd, hi, hz, hc]

/-- A pulled byte pushes back with bits 5 and 4 set (R47). -/
theorem packP_unpackP (c : Cpu) (p : Byte) : packP true (unpackP p c) = p ||| 0x30 := by
  simp only [packP, unpackP_n, unpackP_v, unpackP_d, unpackP_i, unpackP_z, unpackP_c]
  revert p
  decide

/-- Bits 5 and 4 of a pulled byte do not matter (R48). -/
theorem unpackP_xor (d : Cpu) (p : Byte) : unpackP (p ^^^ 0x30) d = unpackP p d := by
  simp [unpackP]

/-- Settles O25: each cycle is one access of its template, and `P(b)` is decided bit by bit. -/
theorem stackAnswer : Obligations.StackAnswer := by
  refine ⟨⟨fun s s1 v ht h i hi => ?_, fun s s1 ht h => ?_, fun s s1 ht h => ?_, fun s s1 v ht h i hi => ?_,
    fun s s1 v ht h => ?_⟩, packP_toNat, unpackP_packP, fun c d p => ⟨packP_unpackP c p, unpackP_xor d p⟩⟩
  · have hdummy : dummyRead s.cpu.pc s = .next (nextCycle s1) := readCycle_of_busRead h _
    fin_cases hi <;> simp only [exec, execPha, execPhp, execPla, execPlp, ht, Nat.le_refl, if_true] <;> exact hdummy
  · have ht : ¬ s.cpu.t ≤ 2 := by omega
    simp only [exec, execPha, if_neg ht]
    exact writeCycle_of_busWrite h _
  · have ht : ¬ s.cpu.t ≤ 2 := by omega
    simp only [exec, execPhp, if_neg ht]
    exact writeCycle_of_busWrite h _
  · have hbump : stackBump s = .next (nextCycle (mapCpu incSp s1)) := readCycle_of_busRead h _
    fin_cases hi <;> simp only [exec, execPla, execPlp, ht] <;> exact hbump
  · have hlast (op : Byte → Cpu → Cpu) := lastRead_of_busRead h op
    have h2 : s.cpu.t ≠ 2 := by omega
    have h3 : s.cpu.t ≠ 3 := by omega
    simp only [exec, execPla, execPlp]
    exact ⟨hlast loadA, hlast unpackP⟩

/-- Settles O34: each cycle of R179; the poll of T6 reads the I that T4 restored. -/
theorem rtiAnswer : Obligations.RtiAnswer := by
  refine ⟨fun s s1 v ht h => ?_, fun s s1 v ht h => ?_, fun s s1 v ht h => ?_, fun s s1 l ht h => ?_,
    fun s s1 h ht hread => ?_⟩ <;> simp only [exec, execRti, returnCycle, ht]
  · exact readCycle_of_busRead h _
  · exact readCycle_of_busRead h _
  · exact readCycle_of_busRead h _
  · exact readCycle_of_busRead h _
  · rw [lastRead_of_busRead hread]
    have hcpu : s1.cpu = (poll s).cpu := (busRead_frame hread).1
    have hpoll : s1.cpu.pollIrq = (s.cpu.irqLatch && !s.cpu.i) := by rw [hcpu]; rfl
    have hdata : s1.cpu.data = s.cpu.data := by rw [hcpu]; rfl
    simp only [endInstr, mapCpu, ← hpoll, ← hdata]

end Sys2Proof.Machine
end

section
/-! The bank decode without a cartridge (R82, R83), from the port's registers (R52, R89). -/

namespace Sys2Proof.Machine

/-- A bank line is the port's bit at an output, and pulled up at an input (R89). -/
theorem bankPin_eq (s : State) {n : Nat} (hn : n < 8) :
    bankPin s n = if s.ddr.getLsbD n then s.port.getLsbD n else true := by
  simp only [bankPin, BitVec.getLsbD_or, BitVec.getLsbD_not, hn, decide_true, Bool.true_and]
  cases s.ddr.getLsbD n <;> simp

section Regions

variable {b : BankConfig} {a : Nat}

theorem readTarget_below_basic (h : a < 0xA000) : readTarget b a = ⟨.ram, a⟩ := if_pos h

theorem readTarget_basic (h : 0xA000 ≤ a) (h' : a < 0xC000) :
    readTarget b a = if b.loram = true ∧ b.hiram = true then ⟨.romBasic, a - 0xA000⟩ else ⟨.ram, a⟩ := by
  simp [readTarget, Nat.not_lt.2 h, h']

theorem readTarget_above_basic (h : 0xC000 ≤ a) (h' : a < 0xD000) : readTarget b a = ⟨.ram, a⟩ := by
  have hlow : ¬ a < 0xA000 ∧ ¬ a < 0xC000 := by omega
  simp [readTarget, hlow, h']

theorem readTarget_io (h : 0xD000 ≤ a) (h' : a < 0xE000) :
    readTarget b a = if b.loram = false ∧ b.hiram = false then ⟨.ram, a⟩
      else if b.charen = true then ioTarget a else ⟨.romChar, a - 0xD000⟩ := by
  have hlow : ¬ a < 0xA000 ∧ ¬ a < 0xC000 ∧ ¬ a < 0xD000 := by omega
  simp [readTarget, hlow, h']

theorem readTarget_kernal (h : 0xE000 ≤ a) :
    readTarget b a = if b.hiram = true then ⟨.romKernal, a - 0xE000⟩ else ⟨.ram, a⟩ := by
  have hlow : ¬ a < 0xA000 ∧ ¬ a < 0xC000 ∧ ¬ a < 0xD000 ∧ ¬ a < 0xE000 := by omega
  simp [readTarget, hlow]

/-- A write where RAM or a ROM is read goes to the RAM (R83). -/
theorem writeTarget_of_memory
    (h : readTarget b a = ⟨.ram, a⟩ ∨ (readTarget b a).region ∈ [.romBasic, .romKernal, .romChar]) :
    writeTarget b a = ⟨.ram, a⟩ := by
  obtain h | h := h
  · simp only [writeTarget, h]
  · simp only [List.mem_cons, List.not_mem_nil, or_false] at h
    obtain h | h | h := h <;> simp only [writeTarget, h]

/-- A write to the I/O window goes where a read does. -/
theorem writeTarget_of_io (h : readTarget b a = ioTarget a) : writeTarget b a = ioTarget a := by
  simp only [writeTarget, h, ioTarget]
  split_ifs <;> rfl

theorem regionOf_read {s : State} (h : NoCartridge s) (ha : 2 ≤ a) :
    regionOf s .read a = .next (readTarget (bankConfig s) a) := by
  simp [regionOf, bankConfig, h, Nat.not_lt.2 ha]

theorem regionOf_write {s : State} (h : NoCartridge s) (ha : 2 ≤ a) :
    regionOf s .write a = .next (writeTarget (bankConfig s) a) := by
  simp [regionOf, bankConfig, h, Nat.not_lt.2 ha]

/-- Where RAM answers a read it answers a write. -/
theorem regionOf_ram {s : State} (h : NoCartridge s) (ha : 2 ≤ a) (hr : readTarget (bankConfig s) a = ⟨.ram, a⟩)
    (d : Dir) : regionOf s d a = .next ⟨.ram, a⟩ := by
  cases d
  · rw [regionOf_read h ha, hr]
  · rw [regionOf_write h ha, writeTarget_of_memory (.inl hr)]

end Regions

/-- Settles O47, region by region. -/
theorem bankDecode : Obligations.BankDecode := by
  refine fun s => ⟨fun d a ha => if_pos ha, fun L H K hs hL hH hK => ?_⟩
  obtain rfl : L = (bankConfig s).loram := hL.trans (bankPin_eq s (by decide)).symm
  obtain rfl : H = (bankConfig s).hiram := hH.trans (bankPin_eq s (by decide)).symm
  obtain rfl : K = (bankConfig s).charen := hK.trans (bankPin_eq s (by decide)).symm
  refine ⟨fun d a h h' => regionOf_ram hs h (readTarget_below_basic h') d, fun a h h' => ?_,
    fun d a h h' => regionOf_ram hs (by omega) (readTarget_above_basic h h') d, fun a h h' => ?_, fun a h h' => ?_⟩
  · have hr := readTarget_basic (b := bankConfig s) h h'
    rw [regionOf_read hs (by omega), regionOf_write hs (by omega), hr]
    refine ⟨rfl, congrArg _ (writeTarget_of_memory ?_)⟩
    rw [hr]
    split_ifs <;> simp
  · have hr := readTarget_io (b := bankConfig s) h h'
    rw [regionOf_read hs (by omega), regionOf_write hs (by omega), hr]
    refine ⟨rfl, congrArg _ ?_⟩
    by_cases hio : ((bankConfig s).loram = true ∨ (bankConfig s).hiram = true) ∧ (bankConfig s).charen = true
    · have hmapped : ¬ ((bankConfig s).loram = false ∧ (bankConfig s).hiram = false) := by
        simpa [imp_iff_not_or] using hio.1
      rw [if_pos hio]
      exact writeTarget_of_io (by rw [hr, if_neg hmapped, if_pos hio.2])
    · rw [if_neg hio]
      refine writeTarget_of_memory ?_
      rw [hr]
      split_ifs with hram hk
      · exact .inl rfl
      · exact absurd ⟨by simpa [imp_iff_not_or] using hram, hk⟩ hio
      · exact .inr (by simp)
  · have hr := readTarget_kernal (b := bankConfig s) h
    rw [regionOf_read hs (by omega), regionOf_write hs (by omega), hr]
    refine ⟨rfl, congrArg _ (writeTarget_of_memory ?_)⟩
    rw [hr]
    split_ifs <;> simp

end Sys2Proof.Machine
end

section
/-! The state after reset (R58). -/

namespace Sys2Proof.Machine

/-- Settles O13, each on the state after reset. -/
theorem resetInvariants : Obligations.ResetInvariants := by
  have hsequencer : SequencerOk State.reset := ⟨rfl, rfl⟩
  exact ⟨by decide, by decide, by decide, by decide, by decide, hsequencer⟩

/-- Settles O19: the seven master cycles are run, and the state is read off. -/
theorem resetState : Obligations.ResetState := by
  have hrun : run 7 State.powerOn = .next State.reset := by rfl
  refine ⟨hrun, ?_⟩
  decide

end Sys2Proof.Machine
end

section
/-! The reset sequence (R414, R415, R505): seven CPU cycles from a machine reset. -/

namespace Sys2Proof.Machine

/-! ## The machine while the sequence runs -/

/-- `s` after a machine reset, with the CPU and the draws of a later cycle. -/
def resetWith (s : State) (c : Cpu) (n : Nat) : State :=
  { s with cpu := c, draws := n, ddr := 0, port := 0, vic := vicReset, cia1 := ciaReset, cia2 := ciaReset }

/-- The CPU after T5: three stack reads have moved S to $FD (R414). -/
def resetCpuT6 (c : Cpu) : Cpu := { applyCpuReset c with sp := 0xFD, t := 6 }

theorem vicAfterRead_vicReset (off : Nat) : vicAfterRead vicReset off = vicReset := by
  unfold vicAfterRead
  split_ifs <;> rfl

theorem ciaAfterRead_ciaReset (off : Nat) : ciaAfterRead ciaReset off = ciaReset := by
  unfold ciaAfterRead
  split_ifs <;> rfl

section Sequence

variable {s : State}

/-- A read takes a draw at most: the registers that it clears are clear. -/
theorem targetAfterRead_resetWith (g : Target) (n : Nat) :
    ∃ n', ∀ c, targetAfterRead (resetWith s c n) g = resetWith s c n' := by
  obtain ⟨r, k⟩ := g
  cases r
  case port =>
    by_cases hk : k = 0
    · exact ⟨n, fun _ => if_pos hk⟩
    · exact ⟨n + 1, fun _ => if_neg hk⟩
  case ram | romBasic | romKernal | romChar => exact ⟨n, fun _ => rfl⟩
  case sid | color | io1 | io2 => exact ⟨n + 1, fun _ => rfl⟩
  case vic => exact ⟨n, fun c => congrArg (fun v => { resetWith s c n with vic := v }) (vicAfterRead_vicReset k)⟩
  case cia1 =>
    exact ⟨if ciaReadsDraw k then n + 1 else n,
      fun c => congrArg (fun x => { resetWith s c (if ciaReadsDraw k then n + 1 else n) with cia1 := x })
        (ciaAfterRead_ciaReset k)⟩
  case cia2 =>
    exact ⟨if ciaReadsDraw k then n + 1 else n,
      fun c => congrArg (fun x => { resetWith s c (if ciaReadsDraw k then n + 1 else n) with cia2 := x })
        (ciaAfterRead_ciaReset k)⟩

/-- Every read answers, and the same whatever the CPU is. -/
theorem busRead_resetWith (h : NoCartridge s) (a : Word) (n : Nat) :
    ∃ v n', ∀ c, busRead a (resetWith s c n) = .next (v, resetWith s c n') := by
  obtain ⟨g, hg⟩ := regionOf_answers (s := resetWith s s.cpu n) h .read a.toNat
  obtain ⟨n', hn'⟩ := targetAfterRead_resetWith (s := s) g n
  exact ⟨targetValue (resetWith s s.cpu n) g, n', fun c => busRead_eq_next.2 ⟨g, hg, rfl, hn' c⟩⟩

/-- KERNAL is mapped: every pin is an input (R89). -/
theorem busRead_resetWith_kernal (h : NoCartridge s) {a : Word} {c : Cpu} {n : Nat} {v : Byte} {t : State}
    (ha : 0xE000 ≤ a.toNat) (hr : busRead a (resetWith s c n) = .next (v, t)) :
    v = Cells.read s.romKernal (a.toNat - 0xE000) := by
  have hs : NoCartridge (resetWith s c n) := h
  have hpin : (bankConfig (resetWith s c n)).hiram = true := (bankPin_eq _ (by decide)).trans (by simp [resetWith])
  have hreg : regionOf (resetWith s c n) .read a.toNat = .next ⟨.romKernal, a.toNat - 0xE000⟩ := by
    rw [regionOf_read hs (by omega), readTarget_kernal ha, if_pos hpin]
  obtain ⟨g, hg, rfl, -⟩ := busRead_eq_next.1 hr
  rw [hreg] at hg
  cases hg
  rfl

/-! ## Its cycles -/

/-- A cycle of the sequence that reads and goes on: the byte read does not depend on the CPU. -/
theorem readCycle_resetWith (h : NoCartridge s) (a : Word) (n : Nat) (g : Cpu → Cpu) (c : Cpu) :
    ∃ n', readCycle a (fun _ s' => nextCycle (mapCpu g s')) (resetWith s c n)
      = .next (resetWith s { g c with t := (g c).t + 1 } n') := by
  obtain ⟨v, n', hr⟩ := busRead_resetWith h a n
  exact ⟨n', readCycle_of_busRead (hr c) _⟩

theorem cpuCycle_resetSeq {c : Cpu} {n : Nat} (hseq : c.seq = .resetSeq) :
    cpuCycle (resetWith s c n) = resetCycle (resetWith s c n) := by
  have h : (resetWith s c n).cpu.seq = .resetSeq := hseq
  simp only [cpuCycle, h]

/-- T1 and T2 read at PC. -/
theorem cpuCycle_reset_dummy (h : NoCartridge s) {c : Cpu} (n : Nat) (hseq : c.seq = .resetSeq)
    (ht : c.t = 1 ∨ c.t = 2) : ∃ n', cpuCycle (resetWith s c n) = .next (resetWith s { c with t := c.t + 1 } n') := by
  obtain ⟨n', hr⟩ := readCycle_resetWith h c.pc n id c
  refine ⟨n', (cpuCycle_resetSeq hseq).trans (.trans ?_ hr)⟩
  have htick : (resetWith s c n).cpu.t = c.t := rfl
  obtain ht | ht := ht <;> simp only [resetCycle, htick, ht] <;> rfl

/-- T3 to T5 read the stack, S moving down. -/
theorem cpuCycle_reset_stack (h : NoCartridge s) {c : Cpu} (n : Nat) {sp sp' : Byte} (hseq : c.seq = .resetSeq)
    (ht : c.t = 3 ∨ c.t = 4 ∨ c.t = 5) (hsp : c.sp = sp) (hsp' : sp - 1 = sp') :
    ∃ n', cpuCycle (resetWith s c n) = .next (resetWith s { c with sp := sp', t := c.t + 1 } n') := by
  subst hsp hsp'
  obtain ⟨n', hr⟩ := readCycle_resetWith h (stackAddr c.sp) n decSp c
  refine ⟨n', (cpuCycle_resetSeq hseq).trans (.trans ?_ hr)⟩
  have htick : (resetWith s c n).cpu.t = c.t := rfl
  obtain ht | ht | ht := ht <;> simp only [resetCycle, htick, ht] <;> rfl

theorem cpuRun_succ {t : State} (h : cpuCycle s = .next t) (k : Nat) : cpuRun (k + 1) s = cpuRun k t := by
  rw [cpuRun, h, andThen_next]

/-- The first five cycles from a machine reset (R414). -/
theorem cpuRun_five_applyReset (h : NoCartridge s) :
    ∃ n, ∀ k, cpuRun (k + 5) (applyReset s) = cpuRun k (resetWith s (resetCpuT6 s.cpu) n) := by
  obtain ⟨n1, h1⟩ := cpuCycle_reset_dummy h (c := applyCpuReset s.cpu) s.draws rfl (.inl rfl)
  obtain ⟨n2, h2⟩ := cpuCycle_reset_dummy h (c := { applyCpuReset s.cpu with t := 2 }) n1 rfl (.inr rfl)
  obtain ⟨n3, h3⟩ := cpuCycle_reset_stack h (c := { applyCpuReset s.cpu with t := 3 }) n2
    (sp := 0) (sp' := 0xFF) rfl (.inl rfl) rfl (by decide)
  obtain ⟨n4, h4⟩ := cpuCycle_reset_stack h (c := { applyCpuReset s.cpu with sp := 0xFF, t := 4 }) n3
    (sp := 0xFF) (sp' := 0xFE) rfl (.inr (.inl rfl)) rfl (by decide)
  obtain ⟨n5, h5⟩ := cpuCycle_reset_stack h (c := { applyCpuReset s.cpu with sp := 0xFE, t := 5 }) n4
    (sp := 0xFE) (sp' := 0xFD) rfl (.inr (.inr rfl)) rfl (by decide)
  exact ⟨n5, fun k => (cpuRun_succ h1 _).trans <| (cpuRun_succ h2 _).trans <| (cpuRun_succ h3 _).trans <|
    (cpuRun_succ h4 _).trans (cpuRun_succ h5 k)⟩

/-- T6 and T7 read the vector: the handler is fetched next, at the word read (R414). -/
theorem cpuRun_two_resetCpuT6 {n n' n'' : Nat} {l h : Byte}
    (hl : ∀ c, busRead s.params.vecReset (resetWith s c n) = .next (l, resetWith s c n'))
    (hh : ∀ c, busRead (s.params.vecReset + 1) (resetWith s c n') = .next (h, resetWith s c n'')) :
    cpuRun 2 (resetWith s (resetCpuT6 s.cpu) n)
      = .next (resetWith s { resetCpuT6 s.cpu with data := l, i := true, pc := cat h l, seq := .handler, t := 1 } n'') := by
  have h6 : cpuCycle (resetWith s (resetCpuT6 s.cpu) n)
      = .next (resetWith s { resetCpuT6 s.cpu with data := l, i := true, t := 7 } n') := by
    have ht : (resetWith s (resetCpuT6 s.cpu) n).cpu.t = 6 := rfl
    rw [cpuCycle_resetSeq rfl]
    simp only [resetCycle, ht]
    exact readCycle_of_busRead (hl _) _
  have h7 : cpuCycle (resetWith s { resetCpuT6 s.cpu with data := l, i := true, t := 7 } n')
      = .next (resetWith s
          { resetCpuT6 s.cpu with data := l, i := true, pc := cat h l, seq := .handler, t := 1 } n'') := by
    have ht : (resetWith s { resetCpuT6 s.cpu with data := l, i := true, t := 7 } n').cpu.t = 7 := rfl
    rw [cpuCycle_resetSeq rfl]
    simp only [resetCycle, ht]
    exact readCycle_of_busRead (hh _) _
  exact (cpuRun_succ h6 1).trans (cpuRun_succ h7 0)

/-! ## The step that takes the reset -/

/-- Nothing is stolen in the cycle of a reset: no badline was seen and no sprite is on (R449). -/
theorem stalls_applyReset (s : State) : stalls (applyReset s) = false := by
  have hcell (n : Nat) : vicCell vicReset n = 0 := rfl
  have harbiter : spriteSwitchOn s.params vicReset = vicReset := by
    unfold spriteSwitchOn
    split
    · simp only [hcell]
      rfl
    · rfl
  have hvic : arbiterVic (applyReset s) = vicReset := harbiter
  have hbad : badline s.params vicReset = false := Bool.and_false _
  have hsprite : anySprite (fun n x => x.dma && decide (winPlace s.params vicReset n < s.params.spriteWinLen))
      vicReset.sprites = false := rfl
  rw [stalls, hvic, applyReset_params, vicStall, hbad, hsprite]
  rfl

/-- A step from a reset is the first cycle of the sequence. -/
theorem step_of_supplied_applyReset {s1 : State} (h : supplied s = applyReset s1)
    (hadm : admitted (supplied s) = true) :
    step s = andThen (cpuCycle (beforeCpu (cycleIn s) (supplied s))) fun t => .next (afterCpu t) := by
  have hstall : stalls (supplied s) = false := h ▸ stalls_applyReset s1
  have hjam : (beforeCpu (cycleIn s) (supplied s)).cpu.jammed = false := by rw [beforeCpu_cpu, h]; rfl
  simp only [step, masterCycle, hadm, hstall, stageD, hjam, if_true, Bool.or_self, Bool.false_eq_true, if_false]

end Sequence

/-- Settles O18: five cycles that leave only S changed, the two that read the vector, and the step that takes it. -/
theorem resetSequence : Obligations.ResetSequence := by
  refine fun s => ⟨fun hs => ?_, fun hres => ?_, supplied_noReset⟩
  · obtain ⟨n, hfive⟩ := cpuRun_five_applyReset hs
    obtain ⟨l, n', hl⟩ := busRead_resetWith hs s.params.vecReset n
    obtain ⟨h, n'', hh⟩ := busRead_resetWith hs (s.params.vecReset + 1) n'
    refine ⟨_, _, _, _, l, h, (hfive 2).trans (cpuRun_two_resetCpuT6 hl hh), rfl, ⟨⟨.inr rfl, rfl⟩, .inl rfl⟩, rfl,
      rfl, rfl, rfl, rfl, rfl, rfl, rfl, rfl, rfl, rfl, rfl, rfl, rfl, hfive 0, hl _, hh _, rfl, fun hvec => ?_⟩
    rw [hvec] at hl hh
    have hlow := busRead_resetWith_kernal hs (by decide) (hl s.cpu)
    have hhigh := busRead_resetWith_kernal hs (by decide) (hh s.cpu)
    exact congrArg₂ cat hhigh hlow
  · have hsup := supplied_of_reset (s := s) (by simpa using hres)
    exact ⟨hsup, step_of_supplied_applyReset hsup⟩

end Sys2Proof.Machine
end

section
/-! Memory on the bus without a cartridge: the processor port (R84, R89 to R91), RAM and the ROMs (R82, R83), and the
part of the I/O window that is no chip with registers (R85, R93 to R95). -/

namespace Sys2Proof.Machine

section

variable {s : State} {a : Word}

/-! ## The processor port -/

/-- The pins' levels bit by bit (R90). -/
theorem portPins_getLsbD (s : State) {n : Nat} (hn : n < 8) :
    (portPins s).getLsbD n = if n < 3 then true
      else if n < 6 then s.host.portPins.getLsbD (n - 3)
      else (Config.freeByte s.draws).getLsbD n := by
  have hfield : n - 3 < 3 ↔ n < 6 := by omega
  simp only [portPins, nextDraw, BitVec.getLsbD_append, hfield, BitVec.getLsbD_extractLsb']
  split_ifs with h3 h6
  · interval_cases n <;> rfl
  · rfl
  · have hbit : n - 3 - 3 < 2 ∧ 6 + (n - 3 - 3) = n := by omega
    simp [hbit]

/-- What a read of $0001 returns: the latch at the outputs, the pins at the inputs (R90). -/
theorem portValue_getLsbD (s : State) {n : Nat} (hn : n < 8) :
    (targetValue s ⟨.port, 1⟩).getLsbD n =
      if s.ddr.getLsbD n then s.port.getLsbD n else (portPins s).getLsbD n := by
  have hvalue : targetValue s ⟨.port, 1⟩ = (s.port &&& s.ddr) ||| (portPins s &&& ~~~s.ddr) := rfl
  simp only [hvalue, BitVec.getLsbD_or, BitVec.getLsbD_and, BitVec.getLsbD_not, hn]
  cases s.ddr.getLsbD n <;> simp

theorem regionOf_port (s : State) (d : Dir) {n : Nat} (h : n < 2) : regionOf s d n = .next ⟨.port, n⟩ := if_pos h

theorem busWrite_ddr (s : State) (v : Byte) :
    busWrite 0 v s = .next { s with ddr := v, ram := Cells.write s.ram 0 v } :=
  busWrite_eq_next.2 ⟨⟨.port, 0⟩, regionOf_port s .write (by decide), rfl⟩

theorem busWrite_port (s : State) (v : Byte) :
    busWrite 1 v s = .next { s with port := v, ram := Cells.write s.ram 1 v } :=
  busWrite_eq_next.2 ⟨⟨.port, 1⟩, regionOf_port s .write (by decide), rfl⟩

/-- The bank lines of the configuration in force (R53, R89). -/
theorem bankConfig_lines (s : State) :
    (bankConfig s).loram = (if s.ddr.getLsbD 0 then s.port.getLsbD 0 else true)
      ∧ (bankConfig s).hiram = (if s.ddr.getLsbD 1 then s.port.getLsbD 1 else true)
      ∧ (bankConfig s).charen = (if s.ddr.getLsbD 2 then s.port.getLsbD 2 else true) :=
  ⟨bankPin_eq s (by decide), bankPin_eq s (by decide), bankPin_eq s (by decide)⟩

/-! ## RAM and the ROMs -/

/-- Where RAM or a ROM is read, a store goes to the byte of RAM at the address (R83). -/
theorem busWrite_memory (hs : NoCartridge s) {c : Target} (h : regionOf s .read a.toNat = .next c)
    (hc : c = ⟨.ram, a.toNat⟩ ∨ c.region ∈ [.romBasic, .romKernal, .romChar]) (v : Byte) :
    busWrite a v s = .next { s with ram := Cells.write s.ram a.toNat v } := by
  have h2 : 2 ≤ a.toNat := by
    by_contra hlt
    rw [regionOf_port s .read (by omega)] at h
    cases h
    simp at hc
  have hread : readTarget (bankConfig s) a.toNat = c := by simpa [regionOf_read hs h2] using h
  refine busWrite_eq_next.2 ⟨⟨.ram, a.toNat⟩, ?_, rfl⟩
  rw [regionOf_write hs h2, writeTarget_of_memory (hread ▸ hc)]

/-- A store under a ROM: RAM takes the byte, a read still gives the image's (R83, R140). -/
theorem rom_readsBack (hs : NoCartridge s) (hok : StorageOk s) {r : Region} {k : Nat}
    (hr : r ∈ [.romBasic, .romKernal, .romChar]) (h : regionOf s .read a.toNat = .next ⟨r, k⟩) {x : Byte}
    (hx : ∀ m, targetValue { s with ram := m } ⟨r, k⟩ = x) (v : Byte) :
    busRead a s = .next (x, s)
      ∧ ∃ t, busWrite a v s = .next t ∧ t = { s with ram := t.ram } ∧ busRead a t = .next (x, t)
        ∧ Cells.read t.ram a.toNat = v ∧ ∀ b, b ≠ a.toNat → Cells.read t.ram b = Cells.read s.ram b := by
  have hafter (u : State) : targetAfterRead u ⟨r, k⟩ = u := by
    simp only [List.mem_cons, List.not_mem_nil, or_false] at hr
    obtain rfl | rfl | rfl := hr <;> rfl
  exact ⟨busRead_eq_next.2 ⟨⟨r, k⟩, h, hx s.ram, hafter s⟩, _, busWrite_memory hs h (.inr hr) v, rfl,
    busRead_eq_next.2 ⟨⟨r, k⟩, h, hx _, hafter _⟩, Cells.read_write_same hok.1 _ v,
    fun b hb => Cells.read_write_other _ v hb⟩

/-! ## The I/O window -/

/-- With I/O mapped the window answers a read and a write alike (R82, R83, R85). -/
theorem regionOf_io (hs : IoMapped s) {n : Nat} (h : 0xD000 ≤ n) (h' : n < 0xE000) (d : Dir) :
    regionOf s d n = .next (ioTarget n) := by
  obtain ⟨hcart, hcharen, hlines⟩ := hs
  have hmapped : ¬ ((bankConfig s).loram = false ∧ (bankConfig s).hiram = false) := by
    simpa [imp_iff_not_or] using hlines
  have hread : readTarget (bankConfig s) n = ioTarget n := by
    rw [readTarget_io h h', if_neg hmapped, if_pos hcharen]
  cases d
  · rw [regionOf_read hcart (by omega), hread]
  · rw [regionOf_write hcart (by omega), writeTarget_of_io hread]

theorem ioTarget_sid {n : Nat} (h : 0xD400 ≤ n) (h' : n < 0xD800) : ioTarget n = ⟨.sid, n % 32⟩ := by
  simp [ioTarget, Nat.not_lt.2 h, h']

theorem ioTarget_color {n : Nat} (h : 0xD800 ≤ n) (h' : n < 0xDC00) : ioTarget n = ⟨.color, n - 0xD800⟩ := by
  have hlow : ¬ n < 0xD400 ∧ ¬ n < 0xD800 := by omega
  simp [ioTarget, hlow, h']

/-- I/O1 and I/O2. -/
theorem ioTarget_expansion {n : Nat} (h : 0xDE00 ≤ n) :
    ioTarget n = ⟨.io1, n - 0xDE00⟩ ∨ ioTarget n = ⟨.io2, n - 0xDF00⟩ := by
  have hlow : ¬ n < 0xD400 ∧ ¬ n < 0xD800 ∧ ¬ n < 0xDC00 ∧ ¬ n < 0xDD00 ∧ ¬ n < 0xDE00 := by omega
  by_cases hn : n < 0xDF00 <;> simp [ioTarget, hlow, hn]

/-- One access to the I/O window, by the register that answers. -/
theorem busRead_busWrite_io (hs : IoMapped s) {c : Target} (h : 0xD000 ≤ a.toNat) (h' : a.toNat < 0xE000)
    (hc : ioTarget a.toNat = c) (v : Byte) :
    busRead a s = .next (targetValue s c, targetAfterRead s c) ∧ busWrite a v s = .next (targetWrite s a c v) := by
  subst hc
  exact ⟨busRead_eq_next.2 ⟨_, regionOf_io hs h h' .read, rfl, rfl⟩,
    busWrite_eq_next.2 ⟨_, regionOf_io hs h h' .write, rfl⟩⟩

end

/-- Settles O48: the port answers at both addresses, and its bits are the latch's or the pins'. -/
theorem portRegisters : Obligations.PortRegisters := by
  intro s v
  refine ⟨busRead_eq_next.2 ⟨⟨.port, 0⟩, regionOf_port s .read (by decide), rfl, rfl⟩,
    ⟨_, busRead_eq_next.2 ⟨⟨.port, 1⟩, regionOf_port s .read (by decide), rfl, rfl⟩, fun n hn => ?_⟩,
    busWrite_ddr s v, busWrite_port s v, fun t ht => ?_, fun t ht => ?_⟩
  · rw [portValue_getLsbD s hn, portPins_getLsbD s hn]
  · cases (busWrite_ddr s v).symm.trans ht
    exact bankConfig_lines _
  · cases (busWrite_port s v).symm.trans ht
    exact bankConfig_lines _

/-- Settles O49: a store to memory goes to RAM, and the decode does not depend on what RAM holds. -/
theorem memoryReadsBack : Obligations.MemoryReadsBack := by
  intro s a v hs hok
  refine ⟨fun h => ?_, fun k h => rom_readsBack hs hok (by simp) h (fun _ => rfl) v,
    fun k h => rom_readsBack hs hok (by simp) h (fun _ => rfl) v,
    fun k h => rom_readsBack hs hok (by simp) h (fun _ => rfl) v⟩
  exact ⟨busRead_eq_next.2 ⟨_, h, rfl, rfl⟩, _, busWrite_memory hs h (.inl rfl) v, rfl,
    busRead_eq_next.2 ⟨_, h, Cells.read_write_same hok.1 _ v, rfl⟩, fun b hb => Cells.read_write_other _ v hb⟩

/-- Settles O50, device by device. -/
theorem windowRegisters : Obligations.WindowRegisters := by
  refine fun s a v hs => ⟨fun h h' => ?_, fun h h' => ?_, fun h h' => ?_⟩
  · obtain ⟨hread, hwrite⟩ := busRead_busWrite_io hs (by omega) (by omega) (ioTarget_color h h') v
    exact ⟨hwrite, _, hread, BitVec.extractLsb'_append_eq_right, BitVec.extractLsb'_append_eq_left⟩
  · obtain ⟨hread, hwrite⟩ := busRead_busWrite_io hs (by omega) (by omega) (ioTarget_sid h h') v
    refine ⟨⟨_, ?_, hwrite⟩, hread⟩
    have hbase : (0xD400 : Word).toNat = 0xD400 := rfl
    dsimp only
    rw [BitVec.toNat_add, BitVec.toNat_ofNat, hbase]
    omega
  · obtain hc | hc := ioTarget_expansion h
    · exact (busRead_busWrite_io hs (by omega) h' hc v).symm
    · exact (busRead_busWrite_io hs (by omega) h' hc v).symm

end Sys2Proof.Machine
end

section
/-! When the machine answers (R81, R92, R417): every operation goes on unless an access meets a map that has no row for
it, or an absent one. -/

namespace Sys2Proof.Machine

/-- The map present has no row for some address (R81). -/
def LacksRow (s : State) : Prop :=
  ∃ rows, s.host.cartMap = some rows ∧ ∃ (d : Dir) (a : Word), 2 ≤ a.toNat
    ∧ ∀ r ∈ rows, ¬ (r.bank = bankConfig s ∧ r.dir = d ∧ r.first ≤ a.toNat ∧ a.toNat ≤ r.last)

/-- What an operation on a machine with the lines and the map of `s` can answer. -/
inductive BusAnswer (s : State) {α : Type} : Answer α → Prop where
  | next (x : α) : BusAnswer s (.next x)
  | noSource (hcart : ¬ NoCartridge s) (h : LacksRow s) : BusAnswer s (.fault .noSource)
  | mapAbsent (hcart : ¬ NoCartridge s) (h : s.host.cartMap = none) : BusAnswer s (.refused .cartMapAbsent)

section Combinators

variable {α β : Type} {s : State}

theorem BusAnswer.andThen {o : Answer α} {f : α → Answer β} (h : BusAnswer s o)
    (hf : ∀ x, o = .next x → BusAnswer s (f x)) : BusAnswer s (andThen o f) := by
  cases h with
  | next x => exact hf x rfl
  | noSource hcart h => exact .noSource hcart h
  | mapAbsent hcart h => exact .mapAbsent hcart h

/-- The answer depends on the lines and the map alone. -/
theorem BusAnswer.of_same {u : State} {o : Answer α} (hhost : u.host = s.host) (hbank : bankConfig u = bankConfig s)
    (h : BusAnswer u o) : BusAnswer s o := by
  have hlines : NoCartridge u ↔ NoCartridge s := by rw [NoCartridge, hhost]
  have hrow : LacksRow u ↔ LacksRow s := by rw [LacksRow, LacksRow, hhost, hbank]
  cases h with
  | next x => exact .next x
  | noSource hcart h => exact .noSource (mt hlines.2 hcart) (hrow.1 h)
  | mapAbsent hcart h => exact .mapAbsent (mt hlines.2 hcart) (hhost ▸ h)

/-- Without a cartridge there is always a next state. -/
theorem BusAnswer.exists_next {o : Answer α} (h : BusAnswer s o) (hs : NoCartridge s) : ∃ x, o = .next x := by
  cases h with
  | next x => exact ⟨x, rfl⟩
  | noSource hcart => exact absurd hs hcart
  | mapAbsent hcart => exact absurd hs hcart

end Combinators

/-! ## One access -/

/-- A map answers, or no row of it fits. -/
theorem cartTarget_cases (b : BankConfig) (d : Dir) (a : Nat) (rows : List CartRow) :
    (∃ t, cartTarget b d a rows = .next t)
      ∨ (cartTarget b d a rows = .fault .noSource
        ∧ ∀ r ∈ rows, ¬ (r.bank = b ∧ r.dir = d ∧ r.first ≤ a ∧ a ≤ r.last)) := by
  induction rows with
  | nil => exact .inr ⟨rfl, by simp⟩
  | cons r rest ih =>
    by_cases hfits : r.bank = b ∧ r.dir = d ∧ r.first ≤ a ∧ a ≤ r.last
    · exact .inl ⟨_, if_pos hfits⟩
    · rw [cartTarget, if_neg hfits, List.forall_mem_cons]
      exact ih.imp_right fun ⟨hfault, hrest⟩ => ⟨hfault, hfits, hrest⟩

/-- With a cartridge the map decodes, and an absent one is refused (R92). -/
theorem regionOf_cartridge {s : State} (hs : ¬ NoCartridge s) {a : Nat} (ha : 2 ≤ a) (d : Dir) :
    regionOf s d a = s.host.cartMap.elim (.refused .cartMapAbsent) (cartTarget (bankConfig s) d a) := by
  have hlines : ¬ ((bankConfig s).exrom && (bankConfig s).game) = true := by simpa [bankConfig] using hs
  simp only [regionOf, if_neg (Nat.not_lt.2 ha), if_neg hlines]
  cases s.host.cartMap <;> rfl

/-- The decode answers, or there is a cartridge and no row for the access. -/
theorem regionOf_busAnswer (s : State) (d : Dir) (a : Word) : BusAnswer s (regionOf s d a.toNat) := by
  by_cases hs : NoCartridge s
  · obtain ⟨t, ht⟩ := regionOf_answers hs d a.toNat
    exact ht ▸ .next t
  by_cases h2 : a.toNat < 2
  · exact regionOf_port s d h2 ▸ .next _
  have ha : 2 ≤ a.toNat := Nat.le_of_not_lt h2
  rw [regionOf_cartridge hs ha]
  cases hmap : s.host.cartMap with
  | none => exact .mapAbsent hs hmap
  | some rows =>
    rw [Option.elim_some]
    obtain ⟨t, ht⟩ | ⟨hfault, hrows⟩ := cartTarget_cases (bankConfig s) d a.toNat rows
    · exact ht ▸ .next t
    · exact hfault ▸ .noSource hs ⟨rows, hmap, d, a, ha, hrows⟩

variable {s : State} {a : Word}

theorem busRead_busAnswer : BusAnswer s (busRead a s) := (regionOf_busAnswer s .read a).andThen fun _ _ => .next _

theorem busWrite_busAnswer {v : Byte} : BusAnswer s (busWrite a v s) :=
  (regionOf_busAnswer s .write a).andThen fun _ _ => .next _

/-! ## The operations of a CPU cycle -/

theorem readCycle_busAnswer {k : Byte → State → State} : BusAnswer s (readCycle a k s) :=
  busRead_busAnswer.andThen fun _ _ => .next _

theorem writeCycle_busAnswer {v : Byte} {k : State → State} : BusAnswer s (writeCycle a v k s) :=
  busWrite_busAnswer.andThen fun _ _ => .next _

theorem dummyRead_busAnswer : BusAnswer s (dummyRead a s) := readCycle_busAnswer

theorem lastRead_busAnswer {op : Byte → Cpu → Cpu} : BusAnswer s (lastRead a op s) :=
  readCycle_busAnswer.of_same (u := poll s) rfl rfl

theorem lastWrite_busAnswer {v : Byte} {op : Cpu → Cpu} : BusAnswer s (lastWrite a v op s) :=
  writeCycle_busAnswer.of_same (u := poll s) rfl rfl

theorem pushCycle_busAnswer {v : Byte} {k : State → State} : BusAnswer s (pushCycle v k s) := writeCycle_busAnswer

theorem pushCycle_poll_busAnswer {v : Byte} {k : State → State} : BusAnswer s (pushCycle v k (poll s)) :=
  pushCycle_busAnswer.of_same (u := poll s) rfl rfl

theorem stackBump_busAnswer : BusAnswer s (stackBump s) := readCycle_busAnswer

theorem implied_busAnswer {op : Cpu → Cpu} : BusAnswer s (implied op s) := lastRead_busAnswer

/-! ## The sequences -/

theorem entryCycle_busAnswer {b : Bool} {vec : State → Word} : BusAnswer s (entryCycle b vec s) := by
  unfold entryCycle
  split
  · exact pushCycle_busAnswer
  · exact pushCycle_busAnswer
  · exact pushCycle_busAnswer
  · exact readCycle_busAnswer
  · exact readCycle_busAnswer

theorem interruptCycle_busAnswer {vec : State → Word} : BusAnswer s (interruptCycle vec s) := by
  unfold interruptCycle
  split
  · exact dummyRead_busAnswer
  · exact entryCycle_busAnswer

theorem resetCycle_busAnswer : BusAnswer s (resetCycle s) := by
  unfold resetCycle
  split <;> exact readCycle_busAnswer

theorem returnCycle_busAnswer : BusAnswer s (returnCycle s) := by
  unfold returnCycle
  split
  · exact dummyRead_busAnswer
  · exact stackBump_busAnswer
  · exact readCycle_busAnswer
  · exact readCycle_busAnswer
  · exact lastRead_busAnswer

/-! ## Operand forms -/

variable {m : Mem}

theorem leadCycle_busAnswer : BusAnswer s (leadCycle m s) := by
  cases m <;> simp only [leadCycle]
  case zp | abs => exact .next _
  case zpX | zpY => exact dummyRead_busAnswer
  case absX | absY => exact readCycle_busAnswer
  case indX | indY => split <;> exact readCycle_busAnswer

theorem readMem_busAnswer {op : Byte → Cpu → Cpu} : BusAnswer s (readMem m op s) := by
  unfold readMem
  split
  · exact lastRead_busAnswer
  · exact leadCycle_busAnswer

theorem writeMem_busAnswer {value : Cpu → Byte} : BusAnswer s (writeMem m value s) := by
  unfold writeMem
  split
  · exact lastWrite_busAnswer
  · exact leadCycle_busAnswer

theorem rmwMem_busAnswer {operate : Byte → Cpu → Byte × Cpu} {final : Byte → Cpu → Cpu} :
    BusAnswer s (rmwMem m operate final s) := by
  unfold rmwMem
  split_ifs
  · exact leadCycle_busAnswer
  · exact readCycle_busAnswer
  · exact writeCycle_busAnswer
  · exact lastWrite_busAnswer

theorem unstableStore_busAnswer {reg : Cpu → Byte} {after : Cpu → Cpu} :
    BusAnswer s (unstableStore m reg after s) := by
  unfold unstableStore
  split
  · exact lastWrite_busAnswer
  · exact leadCycle_busAnswer

theorem readSrc_busAnswer {o : Src} {op : Byte → Cpu → Cpu} : BusAnswer s (readSrc o op s) := by
  cases o
  · exact .next _
  · exact readMem_busAnswer

theorem shiftThen_busAnswer {f : Byte → Bool → Byte × Bool} {final : Byte → Cpu → Cpu} :
    BusAnswer s (shiftThen m f final s) := rmwMem_busAnswer

theorem shiftDst_busAnswer {d : Dst} {f : Byte → Bool → Byte × Bool} : BusAnswer s (shiftDst d f s) := by
  cases d <;> simp only [shiftDst]
  · exact implied_busAnswer
  · exact rmwMem_busAnswer

theorem branch_busAnswer {taken : Cpu → Bool} {off : Byte} : BusAnswer s (branch taken off s) := by
  unfold branch
  split_ifs
  · exact .next _
  · exact .next _
  · exact readCycle_busAnswer
  · exact readCycle_busAnswer
  · exact lastRead_busAnswer

/-! ## The instructions -/

/-- No cycle of an instruction stops but by the decode of its access. -/
theorem exec_busAnswer (i : Instr) (s : State) : BusAnswer s (exec i s) := by
  cases i <;> simp only [exec]
  case lda | ldx | ldy | adc | sbc | cmp | cpx | cpy | and | ora | eor => exact readSrc_busAnswer
  case bit | lax | las => exact readMem_busAnswer
  case sta | stx | sty | sax => exact writeMem_busAnswer
  case sha | shx | shy | tas => exact unstableStore_busAnswer
  case inc | dec | dcp | isc => exact rmwMem_busAnswer
  case slo | rla | sre | rra => exact shiftThen_busAnswer
  case asl | lsr | rol | ror => exact shiftDst_busAnswer
  case tax | tay | txa | tya | tsx | txs | inx | iny | dex | dey | clc | sec | cli | sei | cld | sed | clv =>
    exact implied_busAnswer
  case bpl | bmi | bvc | bvs | bcc | bcs | bne | beq => exact branch_busAnswer
  case anc | alr | arr | sbx | usbc | lxa | ane | jam => exact .next _
  case rti => exact returnCycle_busAnswer
  case nop op n =>
    cases n
    · exact implied_busAnswer
    · exact .next _
    · exact readMem_busAnswer
  case pha | php =>
    simp only [execPha, execPhp]
    split
    · exact dummyRead_busAnswer
    · exact pushCycle_poll_busAnswer
  case pla | plp =>
    simp only [execPla, execPlp]
    split
    · exact dummyRead_busAnswer
    · exact stackBump_busAnswer
    · exact lastRead_busAnswer
  case jmp j =>
    cases j <;> simp only [execJmp]
    · exact .next _
    · split
      · exact readCycle_busAnswer
      · exact lastRead_busAnswer
  case jsr w =>
    simp only [execJsr]
    split
    · exact dummyRead_busAnswer
    · exact pushCycle_busAnswer
    · exact pushCycle_busAnswer
    · exact .next _
  case rts =>
    simp only [execRts]
    split
    · exact dummyRead_busAnswer
    · exact stackBump_busAnswer
    · exact readCycle_busAnswer
    · exact readCycle_busAnswer
    · exact lastRead_busAnswer
  case brk =>
    simp only [execBrk]
    split
    · exact readCycle_busAnswer
    · exact entryCycle_busAnswer

/-! ## The step -/

/-- `exec` after a fetch: a read moves neither the lines nor the map. -/
theorem exec_busAnswer_after_read {u s1 : State} {v : Byte} (h : busRead a u = .next (v, s1)) (i : Instr)
    (f : Cpu → Cpu) : BusAnswer u (exec i (mapCpu f s1)) := by
  obtain ⟨-, hddr, hport, -, -, -, -, -, -, -, hhost, -⟩ := busRead_frame h
  refine (exec_busAnswer i (mapCpu f s1)).of_same (u := mapCpu f s1) hhost ?_
  simp [bankConfig, bankPin, hddr, hport, hhost]

theorem opcodeCycle_busAnswer : BusAnswer s (opcodeCycle s) := by
  refine busRead_busAnswer.andThen fun ⟨op, s1⟩ hread => ?_
  dsimp only
  split
  · exact exec_busAnswer_after_read hread _ _
  · exact .next _

theorem instrCycle_busAnswer {op : Byte} : BusAnswer s (instrCycle op s) := by
  unfold instrCycle
  split
  next f _ =>
    unfold operandCycle
    split
    · refine BusAnswer.of_same (u := poll s) rfl rfl (busRead_busAnswer.andThen fun r hread => ?_)
      exact exec_busAnswer_after_read hread _ _
    · exact readCycle_busAnswer
  next => exact exec_busAnswer _ s

theorem cpuCycle_busAnswer : BusAnswer s (cpuCycle s) := by
  unfold cpuCycle
  split
  · split_ifs
    · exact interruptCycle_busAnswer.of_same (u := beginSeq .nmiSeq s) rfl rfl
    · exact interruptCycle_busAnswer.of_same (u := beginSeq .irqSeq s) rfl rfl
    · exact opcodeCycle_busAnswer
  · exact opcodeCycle_busAnswer
  · exact instrCycle_busAnswer
  · exact interruptCycle_busAnswer
  · exact interruptCycle_busAnswer
  · exact resetCycle_busAnswer

theorem step_of_not_admitted (hs : ¬ NoCartridge (supplied s)) (h : (supplied s).host.cartMap = none) :
    step s = .refused .cartMapAbsent := by
  have hadm : ¬ admitted (supplied s) = true := by simpa [admitted, h] using hs
  exact if_neg hadm

theorem step_busAnswer (s : State) : BusAnswer (supplied s) (step s) := by
  by_cases hadm : admitted (supplied s) = true
  · rw [step, masterCycle, if_pos hadm]
    refine BusAnswer.andThen ?_ fun _ _ => .next _
    unfold stageD
    split
    · exact .next _
    · exact cpuCycle_busAnswer.of_same (u := beforeCpu (cycleIn s) (supplied s)) rfl rfl
  · obtain ⟨hs, hmap⟩ : ¬ NoCartridge (supplied s) ∧ (supplied s).host.cartMap = none := by
      simpa [admitted] using hadm
    exact step_of_not_admitted hs hmap ▸ .mapAbsent hs hmap

/-- Settles O9: a step and a cycle stop by the decode of an access alone, or at the start for want of a map. -/
theorem stepAnswers : Obligations.StepAnswers := by
  refine ⟨fun s hs => (step_busAnswer s).exists_next hs, fun i s hs => (exec_busAnswer i s).exists_next hs,
    fun s => step_of_not_admitted, fun s f hf => ?_⟩
  have h := step_busAnswer s
  rw [hf] at h
  cases h with
  | noSource hcart hrow => exact ⟨rfl, hcart, hrow⟩

end Sys2Proof.Machine
end

section
/-! Encoding and decoding (R160, R161, R189, R191): the encoder's lists agree with the rows of the map, and the operand
bytes an instruction is built from are those it encodes. -/

namespace Sys2Proof

/-! ## Operands and their bytes (R121, R160, R162) -/

@[simp] theorem operandWord_lo_hi (w : Word) : operandWord (operandLo w) (operandHi w) = w :=
  BitVec.extractLsb'_append_extractLsb'_eq_extractLsb' rfl |>.trans BitVec.extractLsb'_eq_self

@[simp] theorem operandLo_operandWord (b1 b2 : Byte) : operandLo (operandWord b1 b2) = b1 :=
  BitVec.extractLsb'_append_eq_right

@[simp] theorem operandHi_operandWord (b1 b2 : Byte) : operandHi (operandWord b1 b2) = b2 :=
  BitVec.extractLsb'_append_eq_left

/-- The operand bytes of a format, of the two that could follow the opcode (R161). -/
def formatBytes (md : Mode) (b1 b2 : Byte) : List Byte := [b1, b2].take (md.length - 1)

/-- The operand bytes of a source. -/
def Src.bytes : Src → List Byte
  | .imm v => [v]
  | .mem m => m.bytes

/-- The operand bytes of a shift's operand. -/
def Dst.bytes : Dst → List Byte
  | .acc => []
  | .mem m => m.bytes

/-- The operand bytes of a NOP's operand. -/
def NopArg.bytes : NopArg → List Byte
  | .implied => []
  | .imm v => [v]
  | .mem m => m.bytes

/-- The operand bytes of JMP. -/
def JumpTo.bytes : JumpTo → List Byte
  | .abs w | .ind w => [operandLo w, operandHi w]

/-- The table's mode of JMP's operand. -/
def JumpTo.mode : JumpTo → Mode
  | .abs _ => .abs
  | .ind _ => .ind

section Operands

/-! An operand is built again from its mode and its bytes. -/

theorem memOf_bytes (m : Mem) : memOf m.mode (m.bytes.getD 0 0) (m.bytes.getD 1 0) = m := by
  cases m <;> simp [memOf, Mem.mode, Mem.bytes]

theorem srcOf_bytes (o : Src) : srcOf o.mode (o.bytes.getD 0 0) (o.bytes.getD 1 0) = o := by
  obtain v | m := o
  · rfl
  · have hmode : m.mode ≠ .imm := by cases m <;> exact Mode.noConfusion
    exact (if_neg hmode).trans (congrArg Src.mem (memOf_bytes m))

theorem dstOf_bytes (d : Dst) : dstOf d.mode (d.bytes.getD 0 0) (d.bytes.getD 1 0) = d := by
  obtain _ | m := d
  · rfl
  · have hmode : m.mode ≠ .acc := by cases m <;> exact Mode.noConfusion
    exact (if_neg hmode).trans (congrArg Dst.mem (memOf_bytes m))

theorem nopOf_bytes (n : NopArg) : nopOf n.mode (n.bytes.getD 0 0) (n.bytes.getD 1 0) = n := by
  obtain _ | v | m := n
  · rfl
  · rfl
  · have hmode : m.mode ≠ .imp ∧ m.mode ≠ .imm := by cases m <;> exact ⟨Mode.noConfusion, Mode.noConfusion⟩
    exact (if_neg hmode.1).trans ((if_neg hmode.2).trans (congrArg NopArg.mem (memOf_bytes m)))

theorem jumpOf_bytes (j : JumpTo) : jumpOf j.mode (j.bytes.getD 0 0) (j.bytes.getD 1 0) = j := by
  cases j <;> simp [jumpOf, JumpTo.mode, JumpTo.bytes]

variable {md : Mode} {b1 b2 : Byte}

/-! An operand of a mode that names it has the bytes of the mode's format. -/

theorem bytes_memOf (h : (memOf md b1 b2).mode = md) : (memOf md b1 b2).bytes = formatBytes md b1 b2 := by
  cases md <;> simp [memOf, Mem.mode, Mem.bytes, formatBytes, Mode.length] at h ⊢

theorem bytes_srcOf (h : (srcOf md b1 b2).mode = md) : (srcOf md b1 b2).bytes = formatBytes md b1 b2 := by
  unfold srcOf at h ⊢
  split_ifs at h ⊢ with himm
  · exact himm ▸ rfl
  · exact bytes_memOf h

theorem bytes_dstOf (h : (dstOf md b1 b2).mode = md) : (dstOf md b1 b2).bytes = formatBytes md b1 b2 := by
  unfold dstOf at h ⊢
  split_ifs at h ⊢ with hacc
  · exact hacc ▸ rfl
  · exact bytes_memOf h

theorem bytes_nopOf (h : (nopOf md b1 b2).mode = md) : (nopOf md b1 b2).bytes = formatBytes md b1 b2 := by
  unfold nopOf at h ⊢
  split_ifs at h ⊢ with himp himm
  · exact himp ▸ rfl
  · exact himm ▸ rfl
  · exact bytes_memOf h

theorem bytes_jumpOf (h : (jumpOf md b1 b2).mode = md) : (jumpOf md b1 b2).bytes = formatBytes md b1 b2 := by
  unfold jumpOf at h ⊢
  split_ifs at h ⊢ <;> simp [JumpTo.mode, JumpTo.bytes, ← h, formatBytes, Mode.length]

end Operands

/-! ## Instructions and their rows (R189) -/

/-- The mnemonic of an instruction. -/
def Instr.mnem : Instr → Mnem
  | .lda _ => .lda | .ldx _ => .ldx | .ldy _ => .ldy | .sta _ => .sta | .stx _ => .stx | .sty _ => .sty
  | .tax => .tax | .tay => .tay | .txa => .txa | .tya => .tya | .tsx => .tsx | .txs => .txs
  | .pha => .pha | .php => .php | .pla => .pla | .plp => .plp
  | .adc _ => .adc | .sbc _ => .sbc | .cmp _ => .cmp | .cpx _ => .cpx | .cpy _ => .cpy
  | .inc _ => .inc | .dec _ => .dec | .inx => .inx | .iny => .iny | .dex => .dex | .dey => .dey
  | .and _ => .and | .ora _ => .ora | .eor _ => .eor | .bit _ => .bit
  | .asl _ => .asl | .lsr _ => .lsr | .rol _ => .rol | .ror _ => .ror
  | .jmp _ => .jmp | .jsr _ => .jsr | .rts => .rts | .rti => .rti | .brk => .brk
  | .bpl _ => .bpl | .bmi _ => .bmi | .bvc _ => .bvc | .bvs _ => .bvs
  | .bcc _ => .bcc | .bcs _ => .bcs | .bne _ => .bne | .beq _ => .beq
  | .clc => .clc | .sec => .sec | .cli => .cli | .sei => .sei | .cld => .cld | .sed => .sed | .clv => .clv
  | .nop _ _ => .nop
  | .slo _ => .slo | .rla _ => .rla | .sre _ => .sre | .rra _ => .rra | .dcp _ => .dcp | .isc _ => .isc
  | .sax _ => .sax | .lax _ => .lax | .lxa _ => .lxa | .anc _ _ => .anc | .alr _ => .alr | .arr _ => .arr
  | .ane _ => .ane | .sbx _ => .sbx | .usbc _ => .usbc | .jam _ => .jam
  | .sha _ => .sha | .shx _ => .shx | .shy _ => .shy | .tas _ => .tas | .las _ => .las

/-- The table's mode of an instruction (R162). -/
def Instr.mode : Instr → Mode
  | .lda o | .ldx o | .ldy o | .adc o | .sbc o | .cmp o | .cpx o | .cpy o | .and o | .ora o | .eor o => o.mode
  | .sta m | .stx m | .sty m | .inc m | .dec m | .bit m | .sax m | .lax m | .sha m | .shx m | .shy m | .tas m
  | .las m | .slo m | .rla m | .sre m | .rra m | .dcp m | .isc m => m.mode
  | .asl d | .lsr d | .rol d | .ror d => d.mode
  | .nop _ n => n.mode
  | .jmp j => j.mode
  | .jsr _ => .abs
  | .bpl _ | .bmi _ | .bvc _ | .bvs _ | .bcc _ | .bcs _ | .bne _ | .beq _ => .rel
  | .lxa _ | .anc _ _ | .alr _ | .arr _ | .ane _ | .sbx _ | .usbc _ => .imm
  | .tax | .tay | .txa | .tya | .tsx | .txs | .pha | .php | .pla | .plp | .inx | .iny | .dex | .dey
  | .rts | .rti | .brk | .clc | .sec | .cli | .sei | .cld | .sed | .clv | .jam _ => .imp

/-- An Encoding list whose entries agree with the map gives an opcode of its mnemonic's row. -/
theorem rowOf_opcodeAt {mn : Mnem} {l : List (Mode × Byte)} (hl : ∀ p ∈ l, rowOf p.2 = (mn, p.1)) {md : Mode}
    {op : Byte} (h : opcodeAt l md = some op) : rowOf op = (mn, md) := by
  induction l with
  | nil => cases h
  | cons p rest ih =>
    simp only [List.forall_mem_cons] at hl
    unfold opcodeAt at h
    split at h
    next hmd =>
      cases h
      exact hmd ▸ hl.1
    next => exact ih hl.2 h

theorem rowOf_nopOpcodes (md : Mode) : ∀ op ∈ nopOpcodes md, rowOf op = (.nop, md) := by
  cases md <;> decide

/-- An instruction that carries its opcode byte encodes to it, if it is one of its list's. -/
theorem eq_of_carried {l : List Byte} {op op' : Byte} (h : (if l.contains op then some op else none) = some op') :
    op = op' ∧ op' ∈ l := by
  obtain ⟨hop, heq⟩ := Option.ite_none_right_eq_some.1 h
  cases heq
  exact ⟨rfl, List.contains_iff_mem.1 hop⟩

/-- The Encoding lists agree with the map of R189. -/
theorem rowOf_opcode {i : Instr} {op : Byte} (h : i.opcode? = some op) : rowOf op = (i.mnem, i.mode) := by
  have hanc : ∀ op ∈ ancOpcodes, rowOf op = (.anc, .imm) := by decide
  have hjam : ∀ op ∈ jamOpcodes, rowOf op = (.jam, .imp) := by decide
  cases i <;> simp only [Instr.opcode?] at h <;> simp only [Instr.mnem, Instr.mode]
  case nop => exact rowOf_nopOpcodes _ _ (eq_of_carried h).2
  case anc => exact hanc _ (eq_of_carried h).2
  case jam => exact hjam _ (eq_of_carried h).2
  case jmp j => cases j <;> cases h <;> rfl
  case lda | ldx | ldy | sta | stx | sty | adc | sbc | cmp | cpx | cpy | inc | dec | and | ora | eor | bit | asl | lsr
      | rol | ror | slo | rla | sre | rra | dcp | isc | sax | lax | sha | shx | shy | tas | las =>
    exact rowOf_opcodeAt (by decide) h
  all_goals
    cases h
    rfl

/-- An instruction is built again from its row and its operand bytes. -/
theorem instrOf_operandBytes {i : Instr} {op : Byte} (h : i.opcode? = some op) :
    instrOf op (i.operandBytes.getD 0 0) (i.operandBytes.getD 1 0) = i := by
  rw [instrOf, rowOf_opcode h]
  cases i
  case lda | ldx | ldy | adc | sbc | cmp | cpx | cpy | and | ora | eor => exact congrArg _ (srcOf_bytes _)
  case sta | stx | sty | inc | dec | bit | sax | lax | sha | shx | shy | tas | las | slo | rla | sre | rra | dcp | isc =>
    exact congrArg _ (memOf_bytes _)
  case asl | lsr | rol | ror => exact congrArg _ (dstOf_bytes _)
  case jmp j =>
    cases j with
    | abs w => exact congrArg _ (jumpOf_bytes (.abs w))
    | ind w => exact congrArg _ (jumpOf_bytes (.ind w))
  case jsr => exact congrArg _ (operandWord_lo_hi _)
  case nop => exact congrArg₂ _ (eq_of_carried h).1.symm (nopOf_bytes _)
  case anc v => exact congrArg (Instr.anc · v) (eq_of_carried h).1.symm
  case jam => exact congrArg _ (eq_of_carried h).1.symm
  all_goals rfl

/-- An instruction of its row has the row's operand bytes. -/
theorem operandBytes_buildInstr {mn : Mnem} {md : Mode} {op b1 b2 : Byte} (h : (buildInstr mn md op b1 b2).mode = md) :
    (buildInstr mn md op b1 b2).operandBytes = formatBytes md b1 b2 := by
  cases mn
  case lda | ldx | ldy | adc | sbc | cmp | cpx | cpy | and | ora | eor => exact bytes_srcOf h
  case sta | stx | sty | inc | dec | bit | sax | lax | sha | shx | shy | tas | las | slo | rla | sre | rra | dcp | isc =>
    exact bytes_memOf h
  case asl | lsr | rol | ror => exact bytes_dstOf h
  case nop => exact bytes_nopOf h
  case jmp => exact .trans (by cases md <;> rfl) (bytes_jumpOf h)
  case jsr =>
    refine .trans ?_ (congrArg (formatBytes · b1 b2) h)
    simp [buildInstr, Instr.operandBytes, formatBytes, Mode.length, Instr.mode]
  all_goals exact .trans rfl (congrArg (formatBytes · b1 b2) h)

/-- Which opcode an instruction has, and whether it is well-formed, depends on the mode of its operand, not on its bytes. -/
theorem opcode?_wf_buildInstr (mn : Mnem) (md : Mode) (op b1 b2 : Byte) :
    (buildInstr mn md op b1 b2).opcode? = (buildInstr mn md op 0 0).opcode?
      ∧ (buildInstr mn md op b1 b2).wf = (buildInstr mn md op 0 0).wf := by
  have hmem : (memOf md b1 b2).mode = (memOf md 0 0).mode := by cases md <;> rfl
  have hsrc : (srcOf md b1 b2).mode = (srcOf md 0 0).mode := by cases md <;> rfl
  have hdst : (dstOf md b1 b2).mode = (dstOf md 0 0).mode := by cases md <;> rfl
  have hnop : (nopOf md b1 b2).mode = (nopOf md 0 0).mode := by cases md <;> rfl
  cases mn
  case jmp => cases md <;> exact ⟨rfl, rfl⟩
  all_goals simp only [buildInstr, Instr.opcode?, Instr.wf, hmem, hsrc, hdst, hnop, and_self]

/-- Every opcode is one of the table's (R191): the instruction it begins is well-formed and encodes to it. -/
theorem opcode?_wf_instrOf (op b1 b2 : Byte) :
    (instrOf op b1 b2).opcode? = some op ∧ (instrOf op b1 b2).wf = true := by
  have hmap : ∀ op : Byte, (instrOf op 0 0).opcode? = some op ∧ (instrOf op 0 0).wf = true := by decide
  obtain ⟨hop, hwf⟩ := opcode?_wf_buildInstr (rowOf op).1 (rowOf op).2 op b1 b2
  exact ⟨hop.trans (hmap op).1, hwf.trans (hmap op).2⟩

theorem operandBytes_instrOf (op b1 b2 : Byte) : (instrOf op b1 b2).operandBytes = formatBytes (rowOf op).2 b1 b2 :=
  operandBytes_buildInstr (congrArg Prod.snd (rowOf_opcode (opcode?_wf_instrOf op b1 b2).1)).symm

/-- The bytes of an instruction with an opcode. -/
theorem encode_of_opcode {i : Instr} {op : Byte} (h : i.opcode? = some op) : encode i = op :: i.operandBytes := by
  rw [encode, h]

open Laws in
/-- `EncodedLength` for every instruction. -/
theorem encodedLength : ∀ i : Instr, EncodedLength.Statement i
  | .lda o => EncodedLength.lda o | .ldx o => EncodedLength.ldx o | .ldy o => EncodedLength.ldy o
  | .sta m => EncodedLength.sta m | .stx m => EncodedLength.stx m | .sty m => EncodedLength.sty m
  | .tax => EncodedLength.tax | .tay => EncodedLength.tay | .txa => EncodedLength.txa | .tya => EncodedLength.tya
  | .tsx => EncodedLength.tsx | .txs => EncodedLength.txs | .pha => EncodedLength.pha | .php => EncodedLength.php
  | .pla => EncodedLength.pla | .plp => EncodedLength.plp | .adc o => EncodedLength.adc o
  | .sbc o => EncodedLength.sbc o | .cmp o => EncodedLength.cmp o | .cpx o => EncodedLength.cpx o
  | .cpy o => EncodedLength.cpy o | .inc m => EncodedLength.inc m | .dec m => EncodedLength.dec m
  | .inx => EncodedLength.inx | .iny => EncodedLength.iny | .dex => EncodedLength.dex | .dey => EncodedLength.dey
  | .and o => EncodedLength.and o | .ora o => EncodedLength.ora o | .eor o => EncodedLength.eor o
  | .bit m => EncodedLength.bit m | .asl d => EncodedLength.asl d | .lsr d => EncodedLength.lsr d
  | .rol d => EncodedLength.rol d | .ror d => EncodedLength.ror d | .jmp j => EncodedLength.jmp j
  | .jsr w => EncodedLength.jsr w | .rts => EncodedLength.rts | .rti => EncodedLength.rti | .brk => EncodedLength.brk
  | .bpl off => EncodedLength.bpl off | .bmi off => EncodedLength.bmi off | .bvc off => EncodedLength.bvc off
  | .bvs off => EncodedLength.bvs off | .bcc off => EncodedLength.bcc off | .bcs off => EncodedLength.bcs off
  | .bne off => EncodedLength.bne off | .beq off => EncodedLength.beq off | .clc => EncodedLength.clc
  | .sec => EncodedLength.sec | .cli => EncodedLength.cli | .sei => EncodedLength.sei | .cld => EncodedLength.cld
  | .sed => EncodedLength.sed | .clv => EncodedLength.clv | .nop op n => EncodedLength.nop op n
  | .slo m => EncodedLength.slo m | .rla m => EncodedLength.rla m | .sre m => EncodedLength.sre m
  | .rra m => EncodedLength.rra m | .dcp m => EncodedLength.dcp m | .isc m => EncodedLength.isc m
  | .sax m => EncodedLength.sax m | .lax m => EncodedLength.lax m | .lxa v => EncodedLength.lxa v
  | .anc op v => EncodedLength.anc op v | .alr v => EncodedLength.alr v | .arr v => EncodedLength.arr v
  | .ane v => EncodedLength.ane v | .sbx v => EncodedLength.sbx v | .usbc v => EncodedLength.usbc v
  | .jam op => EncodedLength.jam op | .sha m => EncodedLength.sha m | .shx m => EncodedLength.shx m
  | .shy m => EncodedLength.shy m | .tas m => EncodedLength.tas m | .las m => EncodedLength.las m

/-- A well-formed instruction has an opcode, and as many operand bytes as its format says (R160, R161). -/
theorem exists_opcode_of_wf {i : Instr} (h : i.wf = true) :
    ∃ op, i.opcode? = some op ∧ lengthOf op = 1 + i.operandBytes.length := by
  obtain ⟨op, hop, hlen⟩ := encodedLength i h
  refine ⟨op, ?_, hlen⟩
  unfold encode at hop
  split at hop
  next heq =>
    cases hop
    exact heq
  next => cases hop

/-! ## Decoding (R160, R161) -/

theorem lengthOf_le (op : Byte) : 1 ≤ lengthOf op ∧ lengthOf op ≤ 3 := by
  unfold lengthOf
  cases (rowOf op).2 <;> decide

/-- The opcode with the operand bytes its format has. -/
theorem decode_append {op : Byte} {bs : List Byte} (h : lengthOf op = 1 + bs.length) (rest : List Byte) :
    decode (op :: (bs ++ rest)) = .instr (instrOf op (bs.getD 0 0) (bs.getD 1 0)) rest := by
  obtain _ | ⟨b1, _ | ⟨b2, _ | ⟨b3, bs⟩⟩⟩ := bs
  · simp [decode, h]
  · simp [decode, h]
  · simp [decode, h]
  · have hle := (lengthOf_le op).2
    simp only [List.length_cons] at h
    omega

/-- What is decoded is the opcode with those bytes. -/
theorem decode_eq_instr {bs rest : List Byte} {i : Instr} (h : decode bs = .instr i rest) :
    ∃ op ops, bs = op :: (ops ++ rest) ∧ lengthOf op = 1 + ops.length
      ∧ i = instrOf op (ops.getD 0 0) (ops.getD 1 0) := by
  obtain _ | ⟨op, bs⟩ := bs
  · cases h
  simp only [decode] at h
  split at h
  next hlen =>
    cases h
    exact ⟨op, [], rfl, hlen, rfl⟩
  next b1 _ hlen =>
    cases h
    exact ⟨op, [b1], rfl, hlen, rfl⟩
  next b1 b2 _ hlen =>
    cases h
    exact ⟨op, [b1, b2], rfl, hlen, rfl⟩
  next => cases h

/-- Only the end of the bytes is refused. -/
theorem decode_rejects_iff (op : Byte) (bs : List Byte) :
    (∃ e, decode (op :: bs) = .reject e) ↔ bs.length + 1 < lengthOf op := by
  constructor
  · rintro ⟨e, he⟩
    by_contra hlen
    have hpos := (lengthOf_le op).1
    have htake : lengthOf op = 1 + (bs.take (lengthOf op - 1)).length := by
      rw [List.length_take]
      omega
    have hinstr := decode_append htake (bs.drop (lengthOf op - 1))
    rw [List.take_append_drop, he] at hinstr
    cases hinstr
  · intro hlen
    cases hd : decode (op :: bs) with
    | reject e => exact ⟨e, rfl⟩
    | instr i rest =>
      obtain ⟨op', ops, hbs, hops, -⟩ := decode_eq_instr hd
      cases hbs
      rw [List.length_append] at hlen
      omega

theorem formatBytes_getD {md : Mode} {ops : List Byte} (h : md.length = 1 + ops.length) :
    formatBytes md (ops.getD 0 0) (ops.getD 1 0) = ops := by
  obtain _ | ⟨b1, _ | ⟨b2, _ | ⟨b3, ops⟩⟩⟩ := ops
  case cons.cons.cons => cases md <;> simp [Mode.length] at h <;> omega
  all_goals simp [formatBytes, h]

/-- Settles O2: the encoder's opcode has the instruction's row, and its operand bytes are those it is built from. -/
theorem decodeEncode : Obligations.DecodeEncode := by
  intro i rest hwf
  obtain ⟨op, hop, hlen⟩ := exists_opcode_of_wf hwf
  rw [encode_of_opcode hop, List.cons_append, decode_append hlen, instrOf_operandBytes hop]

/-- Settles O3: every opcode's instruction is of the table and has the bytes of its format. -/
theorem encodeDecode : Obligations.EncodeDecode := by
  refine ⟨fun bs i rest h => ?_, decode_rejects_iff, fun nbits w => ?_⟩
  · obtain ⟨op, ops, rfl, hlen, rfl⟩ := decode_eq_instr h
    obtain ⟨hop, hwf⟩ := opcode?_wf_instrOf op (ops.getD 0 0) (ops.getD 1 0)
    refine ⟨hwf, ?_⟩
    rw [encode_of_opcode hop, operandBytes_instrOf, formatBytes_getD hlen, List.cons_append]
  · unfold decodeTableWord
    split
    next i _ _ => exact ⟨i, rfl⟩
    next e he =>
      have hlong : 3 < lengthOf _ := (decode_rejects_iff _ _).1 ⟨e, he⟩
      exact absurd (lengthOf_le _).2 (Nat.not_le.2 hlong)

/-- Settles O1: the words evaluate. -/
theorem decodeWords : Obligations.DecodeWords := by
  unfold Obligations.DecodeWords
  decide

end Sys2Proof
end

section
/-! The addresses of the operand forms in numbers (R163 to R168), and the lead cycles that read on the way to them
(R167, R173 to R175). -/

namespace Sys2Proof.Machine

/-! ## Words and their halves in numbers (R11, R12) -/

@[simp] theorem lo_cat (h l : Byte) : lo (cat h l) = l := BitVec.extractLsb'_append_eq_right

@[simp] theorem hi_cat (h l : Byte) : hi (cat h l) = h := BitVec.extractLsb'_append_eq_left

@[simp] theorem cat_hi_lo (w : Word) : cat (hi w) (lo w) = w :=
  (BitVec.extractLsb'_append_extractLsb'_eq_extractLsb' rfl).trans BitVec.extractLsb'_eq_self

theorem cat_toNat (h l : Byte) : (cat h l).toNat = 256 * h.toNat + l.toNat := by
  have hl := l.isLt
  rw [cat, BitVec.toNat_append, Nat.shiftLeft_eq, ← Nat.mul_comm, ← Nat.two_pow_add_eq_or_of_lt hl]

theorem zext16_toNat (v : Byte) : (zext16 v).toNat = v.toNat := by
  have hv := v.isLt
  simp only [zext16, BitVec.truncate_eq_setWidth, BitVec.toNat_setWidth]
  omega

/-- A word as its halves in numbers. -/
theorem toNat_eq_hi_lo (w : Word) : w.toNat = 256 * (hi w).toNat + (lo w).toNat := by
  rw [← cat_toNat, cat_hi_lo]

/-- An index added to a word (R166). -/
theorem toNat_add_zext16 (w : Word) (i : Byte) : (w + zext16 i).toNat = (w.toNat + i.toNat) % 65536 := by
  rw [BitVec.toNat_add, zext16_toNat]

/-- An index added to the low half alone (R166). -/
theorem toNat_cat_hi_add (w : Word) (i : Byte) :
    (cat (hi w) (lo w + i)).toNat = 256 * (hi w).toNat + ((lo w).toNat + i.toNat) % 256 := by
  rw [cat_toNat, BitVec.toNat_add]

/-- The low half alone is the whole sum exactly where it does not carry. -/
theorem cat_hi_add_eq_iff (w : Word) (i : Byte) :
    cat (hi w) (lo w + i) = w + zext16 i ↔ (lo w).toNat + i.toNat ≤ 255 := by
  have hhi := (hi w).isLt
  have hlo := (lo w).isLt
  have hidx := i.isLt
  rw [← BitVec.toNat_inj, toNat_cat_hi_add, toNat_add_zext16, toNat_eq_hi_lo]
  omega

/-- Settles O20: each form's address is a sum of its base and its index, in the page or in the whole word. -/
theorem addressing : Obligations.Addressing := by
  intro c
  have hzp (b i : Byte) : (zext16 (b + i)).toNat = (b.toNat + i.toNat) % 256 := by
    rw [zext16_toNat, BitVec.toNat_add]
  have hfull (h l i : Byte) : (cat h l + zext16 i).toNat = (256 * h.toNat + l.toNat + i.toNat) % 65536 := by
    rw [toNat_add_zext16, cat_toNat]
  have hpart (h l i : Byte) :
      (cat (hi (cat h l)) (lo (cat h l) + i)).toNat = 256 * h.toNat + (l.toNat + i.toNat) % 256 := by
    rw [toNat_cat_hi_add, hi_cat, lo_cat]
  have hcross (h l i : Byte) :
      decide ((lo (cat h l)).toNat + i.toNat > 255) = true ↔ l.toNat + i.toNat > 255 := by
    rw [lo_cat, decide_eq_true_iff]
  refine ⟨fun b => ⟨zext16_toNat b, hzp b c.x, hzp b c.y⟩, fun b1 b2 => ?_, fun b l h hbase => ?_, fun m hm => ?_⟩
  · exact ⟨cat_toNat b2 b1, hfull b2 b1 c.x, hfull b2 b1 c.y, hpart b2 b1 c.x, hpart b2 b1 c.y, hcross b2 b1 c.x,
      hcross b2 b1 c.y⟩
  · simp only [effAddr, partialAddr, crosses, baseOf, indexOf, hbase]
    exact ⟨hfull h l c.y, hpart h l c.y, hcross h l c.y⟩
  · have hiff (w : Word) (i : Byte) :
        decide ((lo w).toNat + i.toNat > 255) = false ↔ cat (hi w) (lo w + i) = w + zext16 i := by
      rw [cat_hi_add_eq_iff, decide_eq_false_iff_not, Nat.not_lt]
    cases m with
    | absX w => exact hiff w c.x
    | absY w => exact hiff w c.y
    | indY b => exact hiff c.base c.y
    | zp | zpX | zpY | abs | indX => cases hm

/-! ## Lead cycles (R173 to R175) -/

@[simp] theorem lo_zext16 (v : Byte) : lo (zext16 v) = v := by
  have hv := v.isLt
  refine BitVec.eq_of_toNat_eq ?_
  simp only [lo, BitVec.extractLsb'_toNat, zext16_toNat, Nat.shiftRight_zero]
  omega

/-- Changes that agree on the CPU at hand are one change. -/
theorem mapCpu_congr {f g : Cpu → Cpu} {c : Cpu} {s : State} (hcpu : s.cpu = c) (h : f c = g c) :
    mapCpu f s = mapCpu g s := by
  rw [mapCpu, mapCpu, hcpu, h]

section Lead

variable {m : Mem} {s s1 : State} {v : Byte}

theorem readMem_lead (h : readsDatum m s = false) (op : Byte → Cpu → Cpu) : readMem m op s = leadCycle m s :=
  if_neg (by simp [h])

theorem writeMem_lead (h : s.cpu.t < datumCycle m) (value : Cpu → Byte) : writeMem m value s = leadCycle m s :=
  if_neg (Nat.not_le.2 h)

theorem unstableStore_lead (h : s.cpu.t < datumCycle m) (reg : Cpu → Byte) (after : Cpu → Cpu) :
    unstableStore m reg after s = leadCycle m s := if_neg (Nat.not_le.2 h)

theorem rmwMem_lead (h : s.cpu.t < datumCycle m) (operate : Byte → Cpu → Byte × Cpu) (final : Byte → Cpu → Cpu) :
    rmwMem m operate final s = leadCycle m s := if_pos h

/-- The fix-up cycle latches the effective address and the crossing. -/
theorem fixupCycle_of_busRead (h : busRead (partialAddr m s.cpu) s = .next (v, s1)) :
    fixupCycle m s = .next (nextCycle (mapCpu (fun c =>
      { c with ea := effAddr m s.cpu, crossed := crosses m s.cpu }) s1)) := by
  rw [fixupCycle, readCycle_of_busRead h, mapCpu_congr (busRead_frame h).1]
  rfl

theorem dummyRead_of_busRead {a : Word} (h : busRead a s = .next (v, s1)) : dummyRead a s = .next (nextCycle s1) :=
  readCycle_of_busRead h _

variable {b : Byte}

theorem leadCycle_indX_three (ht : s.cpu.t = 3) : leadCycle (.indX b) s = dummyRead (zext16 b) s := by
  simp only [leadCycle, ht]

theorem leadCycle_indX_four (ht : s.cpu.t = 4) :
    leadCycle (.indX b) s = readCycle (zext16 (b + s.cpu.x))
      (fun v s' => nextCycle (mapCpu (fun c => { c with ea := zext16 v }) s')) s := by
  simp only [leadCycle, ht]

theorem leadCycle_indX_five (ht : s.cpu.t = 5) :
    leadCycle (.indX b) s = readCycle (zext16 (b + s.cpu.x + 1))
      (fun v s' => nextCycle (mapCpu (fun c => { c with ea := cat v (lo c.ea) }) s')) s := by
  simp only [leadCycle, ht]

theorem leadCycle_indY_three (ht : s.cpu.t = 3) :
    leadCycle (.indY b) s = readCycle (zext16 b)
      (fun v s' => nextCycle (mapCpu (fun c => { c with base := zext16 v }) s')) s := by
  simp only [leadCycle, ht]

theorem leadCycle_indY_four (ht : s.cpu.t = 4) :
    leadCycle (.indY b) s = readCycle (zext16 (b + 1))
      (fun v s' => nextCycle (mapCpu (fun c => { c with base := cat v (lo c.base) }) s')) s := by
  simp only [leadCycle, ht]

theorem leadCycle_indY_five (ht : s.cpu.t = 5) : leadCycle (.indY b) s = fixupCycle (.indY b) s := by
  simp only [leadCycle, ht]

/-- T4 and T5 of `(zp,X)` read the pointer (R167). -/
theorem leadCycle_indX_pointer {l h : Byte} {s2 : State} (ht : s.cpu.t = 4)
    (hl : busRead (zext16 (b + s.cpu.x)) s = .next (l, s1))
    (hh : busRead (zext16 (b + s.cpu.x + 1)) (nextCycle (mapCpu (fun c => { c with ea := zext16 l }) s1))
      = .next (h, s2)) :
    ∃ t, andThen (leadCycle (.indX b) s) (leadCycle (.indX b)) = .next t ∧ t.cpu.t = 6
      ∧ effAddr (.indX b) t.cpu = cat h l := by
  have hcpu : s1.cpu = s.cpu := (busRead_frame hl).1
  have hcpu2 := (busRead_frame hh).1
  rw [leadCycle_indX_four ht, readCycle_of_busRead hl, andThen_next, leadCycle_indX_five (by simp [hcpu, ht])]
  refine ⟨_, readCycle_of_busRead (by simpa [hcpu] using hh) _, ?_, ?_⟩
  · simp [hcpu2, hcpu, ht]
  · simp [effAddr, hcpu2]

/-- T3 and T4 of `(zp),Y` read the pointer (R168). -/
theorem leadCycle_indY_pointer {l h : Byte} {s2 : State} (ht : s.cpu.t = 3)
    (hl : busRead (zext16 b) s = .next (l, s1))
    (hh : busRead (zext16 (b + 1)) (nextCycle (mapCpu (fun c => { c with base := zext16 l }) s1)) = .next (h, s2)) :
    ∃ t, andThen (leadCycle (.indY b) s) (leadCycle (.indY b)) = .next t ∧ t.cpu.t = 5
      ∧ effAddr (.indY b) t.cpu = cat h l + zext16 s.cpu.y := by
  have hcpu : s1.cpu = s.cpu := (busRead_frame hl).1
  have hcpu2 := (busRead_frame hh).1
  rw [leadCycle_indY_three ht, readCycle_of_busRead hl, andThen_next, leadCycle_indY_four (by simp [hcpu, ht])]
  refine ⟨_, readCycle_of_busRead hh _, ?_, ?_⟩
  · simp [hcpu2, hcpu, ht]
  · simp [effAddr, baseOf, indexOf, hcpu2, hcpu]

end Lead

/-- Settles O21: every template starts with its form's lead cycles, and each of those is one read. -/
theorem leadCycles : Obligations.LeadCycles := by
  refine ⟨⟨fun m s ht => ⟨?_, ?_, fun hd => ?_⟩, fun b v s s1 h => ⟨dummyRead_of_busRead h, dummyRead_of_busRead h⟩,
    fun w v s s1 => ⟨fixupCycle_of_busRead, fixupCycle_of_busRead⟩⟩, fun b l h s s1 s2 => leadCycle_indX_pointer,
    fun b v s s1 ht h => ?_, fun b v s s1 ht h => ?_, fun b l h s s1 s2 => leadCycle_indY_pointer⟩
  · simp only [List.forall_mem_cons, List.not_mem_nil, false_imp_iff, implies_true, and_true, exec, execSta, execStx,
      execSty, execSax, execSha, execShx, execShy, execTas, execInc, execDec, execSlo, execRla, execSre, execRra, execDcp,
      execIsc, shiftThen, writeMem_lead ht, unstableStore_lead ht, rmwMem_lead ht]
  · simp only [List.forall_mem_cons, List.not_mem_nil, false_imp_iff, implies_true, and_true, exec, execAsl, execLsr,
      execRol, execRor, shiftDst, rmwMem_lead ht]
  · simp only [List.forall_mem_cons, List.not_mem_nil, false_imp_iff, implies_true, and_true, exec, execLda, execLdx,
      execLdy, execAdc, execSbc, execCmp, execCpx, execCpy, execAnd, execOra, execEor, execBit, execLax, execLas, execNop,
      readSrc, readMem_lead hd]
  · rw [leadCycle_indX_three ht]
    exact dummyRead_of_busRead h
  · rw [leadCycle_indY_five ht]
    exact fixupCycle_of_busRead h

end Sys2Proof.Machine
end

section
/-! The read-modify-writes cycle by cycle (R174): INC and DEC (R247, R248), the shifts and rotates (R274 to R277), and the
combined instructions (R320 to R326). -/

namespace Sys2Proof.Machine

theorem mapCpu_same (s : State) : mapCpu (fun c => c) s = s := rfl

/-! ## The three cycles of the template (R174) -/

section Template

variable {m : Mem} {s s1 : State}

theorem rmwMem_datum {v : Byte} (ht : s.cpu.t = datumCycle m) (h : busRead (effAddr m s.cpu) s = .next (v, s1))
    (operate : Byte → Cpu → Byte × Cpu) (final : Byte → Cpu → Cpu) :
    rmwMem m operate final s = .next (nextCycle (mapCpu (fun c => { c with data := v }) s1)) := by
  rw [rmwMem, if_neg (by omega), if_pos ht]
  exact readCycle_of_busRead h _

theorem rmwMem_writeBack (ht : s.cpu.t = datumCycle m + 1) (h : busWrite (effAddr m s.cpu) s.cpu.data s = .next s1)
    (operate : Byte → Cpu → Byte × Cpu) (final : Byte → Cpu → Cpu) :
    rmwMem m operate final s = .next (nextCycle (mapCpu (fun c =>
      { (operate c.data c).2 with data := (operate c.data c).1 }) s1)) := by
  rw [rmwMem, if_neg (by omega), if_neg (by omega), if_pos ht]
  exact writeCycle_of_busWrite h _

theorem rmwMem_result (ht : datumCycle m + 2 ≤ s.cpu.t)
    (h : busWrite (effAddr m s.cpu) s.cpu.data (poll s) = .next s1)
    (operate : Byte → Cpu → Byte × Cpu) (final : Byte → Cpu → Cpu) :
    rmwMem m operate final s = .next (endInstr (mapCpu (final s.cpu.data) s1)) := by
  rw [rmwMem, if_neg (by omega), if_neg (by omega), if_neg (by omega)]
  exact writeCycle_of_busWrite h _

end Template

/-! ## The shifts and rotates, bit by bit (R274 to R277) -/

theorem rolOp_eq (v : Byte) (carry : Bool) :
    rolOp v carry = (v.extractLsb' 0 7 ++ BitVec.ofBool carry, v.getLsbD 7) := by
  revert v carry
  decide

theorem rorOp_eq (v : Byte) (carry : Bool) :
    rorOp v carry = (BitVec.ofBool carry ++ v.extractLsb' 1 7, v.getLsbD 0) := by
  revert v carry
  decide

section Shifts

variable (v : Byte) (c : Cpu)

theorem shifted_aslOp :
    shifted aslOp v c = (v <<< 1, { c with c := v.getLsbD 7, n := v.getLsbD 6, z := v <<< 1 == 0 }) := by
  simp [shifted, aslOp, setNZ]

theorem shifted_lsrOp :
    shifted lsrOp v c = (v >>> 1, { c with c := v.getLsbD 0, n := false, z := v >>> 1 == 0 }) := by
  simp [shifted, lsrOp, setNZ]

theorem shifted_rolOp :
    shifted rolOp v c = (v.extractLsb' 0 7 ++ BitVec.ofBool c.c,
      { c with c := v.getLsbD 7, n := v.getLsbD 6, z := v.extractLsb' 0 7 == 0 && !c.c }) := by
  have hflags (carry : Bool) : (v.extractLsb' 0 7 ++ BitVec.ofBool carry).getLsbD 7 = v.getLsbD 6
      ∧ (v.extractLsb' 0 7 ++ BitVec.ofBool carry == 0) = (v.extractLsb' 0 7 == 0 && !carry) := by
    revert v carry
    decide
  simp only [shifted, rolOp_eq, setNZ, (hflags c.c).1, (hflags c.c).2]

theorem shifted_rorOp :
    shifted rorOp v c = (BitVec.ofBool c.c ++ v.extractLsb' 1 7,
      { c with c := v.getLsbD 0, n := c.c, z := v.extractLsb' 1 7 == 0 && !c.c }) := by
  have hflags (carry : Bool) : (BitVec.ofBool carry ++ v.extractLsb' 1 7).getLsbD 7 = carry
      ∧ (BitVec.ofBool carry ++ v.extractLsb' 1 7 == 0) = (v.extractLsb' 1 7 == 0 && !carry) := by
    revert v carry
    decide
  simp only [shifted, rorOp_eq, setNZ, (hflags c.c).1, (hflags c.c).2]

end Shifts

/-- Settles O30: the datum's cycle is the template's; INC and DEC are one operation each. -/
theorem rmwAnswer : Obligations.RmwAnswer := by
  refine ⟨fun m s s1 v ht h => ⟨?_, ?_⟩, fun m s s1 ht h => ?_, fun m s s1 ht h => ?_⟩
  · simp only [List.forall_mem_cons, List.not_mem_nil, false_imp_iff, implies_true, and_true, exec, execInc, execDec,
      execSlo, execRla, execSre, execRra, execDcp, execIsc, shiftThen, rmwMem_datum ht h]
  · simp only [List.forall_mem_cons, List.not_mem_nil, false_imp_iff, implies_true, and_true, exec, execAsl, execLsr,
      execRol, execRor, shiftDst, rmwMem_datum ht h]
  · simp only [exec, execInc, execDec, rmwMem_writeBack ht h, setNZ, and_self]
  · simp only [exec, execInc, execDec, rmwMem_result ht h, mapCpu_same, and_self]

/-- Settles O31: the template's cycles with each shift's bits. -/
theorem shiftsAnswer : Obligations.ShiftsAnswer := by
  refine ⟨fun s s1 v h => ?_, fun m s s1 ht h => ?_, fun m s s1 ht h => ?_⟩
  · simp only [exec, execAsl, execLsr, execRol, execRor, shiftDst, implied, lastRead_of_busRead h, shifted_aslOp,
      shifted_lsrOp, shifted_rolOp, shifted_rorOp, and_self]
  · simp only [exec, execAsl, execLsr, execRol, execRor, shiftDst, rmwMem_writeBack ht h, shifted_aslOp,
      shifted_lsrOp, shifted_rolOp, shifted_rorOp, and_self]
  · simp only [List.forall_mem_cons, List.not_mem_nil, false_imp_iff, implies_true, and_true, exec, execAsl, execLsr,
      execRol, execRor, shiftDst, rmwMem_result ht h, mapCpu_same]

/-- Settles O39: the shift at the first write, the second operation at the last. -/
theorem combinedAnswer : Obligations.CombinedAnswer := by
  refine ⟨fun m s s1 ht h => ?_, fun m s s1 r ht hr h => ?_⟩
  · simp only [exec, execSlo, execRla, execSre, execRra, execDcp, execIsc, shiftThen, rmwMem_writeBack ht h, aslOp, lsrOp,
      rolOp_eq, rorOp_eq, and_self]
  · subst hr
    simp only [exec, execSlo, execRla, execSre, execRra, execDcp, execIsc, shiftThen, rmwMem_result ht h, loadA, setNZ,
      compareOp, ge_iff_le, and_self]

end Sys2Proof.Machine
end

section
/-! The frames of the stores (R175, R204 to R206, R327, R343). -/

namespace Sys2Proof.Machine

/-- Settles O44: a store writes what its profile says, and stores in its write cycle alone, where `storeAddr` says. -/
theorem frameStores : Obligations.FrameStores := by
  intro s t m
  refine ⟨fun i hi h => ?_, fun p hp h => ?_⟩
  · simp only [List.mem_cons, List.not_mem_nil, or_false] at hi
    rcases hi with rfl | rfl | rfl | rfl <;> exact exec_frame_stores rfl rfl h
  · fin_cases hp <;> exact exec_frame_stores rfl rfl h

end Sys2Proof.Machine
end

section
/-! Jumps and subroutines (R290 to R292) and the entry of an interrupt (R409 to R413, R294), cycle by cycle. -/

namespace Sys2Proof.Machine

theorem pushCycle_of_busWrite {v : Byte} {s s1 : State} (h : busWrite (stackAddr s.cpu.sp) v s = .next s1)
    (k : State → State) : pushCycle v k s = .next (k (mapCpu decSp s1)) := writeCycle_of_busWrite h _

/-- Settles O32: each cycle is one access of its template, or the change of PC alone. -/
theorem jumpsAnswer : Obligations.JumpsAnswer := by
  refine ⟨fun w s => rfl, fun w s s1 l ht h => ?_, fun w s s1 l ht h => ?_, fun w s s1 v ht h => ?_,
    fun w s s1 ht h => ?_, fun w s s1 ht h => ?_, fun w s ht => ?_, fun s s1 v ht h => ?_, fun s s1 v ht h => ?_,
    fun s s1 l ht h => ?_, fun s s1 l ht h => ?_, fun s s1 v ht h => ?_⟩ <;>
    simp only [exec, execJmp, execJsr, execRts, ht, Nat.le_refl, if_true]
  · exact readCycle_of_busRead h _
  · have hdata : s1.cpu.data = (poll s).cpu.data := congrArg Cpu.data (busRead_frame h).1
    have hpoll : (poll s).cpu.data = s.cpu.data := rfl
    rw [if_neg (by decide), lastRead_of_busRead h, ← hpoll, ← hdata]
    rfl
  · exact dummyRead_of_busRead h
  · exact pushCycle_of_busWrite h _
  · exact pushCycle_of_busWrite h _
  · exact dummyRead_of_busRead h
  · exact readCycle_of_busRead h _
  · exact readCycle_of_busRead h _
  · have hdata : s1.cpu.data = s.cpu.data := congrArg Cpu.data (busRead_frame h).1
    rw [readCycle_of_busRead h, ← hdata]
    rfl
  · exact lastRead_of_busRead h _

/-! ## The interrupt entry (R180, R409) -/

/-- The address of a stack byte (R43). -/
theorem stackAddr_toNat (sp : Byte) : (stackAddr sp).toNat = 256 + sp.toNat := by
  revert sp
  decide

/-- A push goes to RAM (R43, R83). -/
theorem busWrite_stack {s : State} (h : NoCartridge s) (sp v : Byte) :
    busWrite (stackAddr sp) v s = .next { s with ram := Cells.write s.ram (stackAddr sp).toNat v } := by
  have hsp := sp.isLt
  have haddr := stackAddr_toNat sp
  exact busWrite_memory h (regionOf_ram h (by omega) (readTarget_below_basic (by omega)) .read) (.inl rfl) v

/-- A read answers the same whatever the CPU is, and leaves it alone. -/
theorem busRead_mapCpu {a : Word} {v : Byte} {s t : State} (h : busRead a s = .next (v, t)) (f : Cpu → Cpu) :
    busRead a (mapCpu f s) = .next (v, mapCpu f t) := by
  obtain ⟨⟨r, k⟩, hreg, rfl, rfl⟩ := busRead_eq_next.1 h
  refine busRead_eq_next.2 ⟨⟨r, k⟩, hreg, by cases r <;> rfl, ?_⟩
  cases r
  case port =>
    simp only [targetAfterRead]
    split <;> rfl
  all_goals rfl

/-- The three that share the entry (R180, R409): what the CPU executes, and the B it pushes. -/
def entries : List (Seq × Bool) := [(.irqSeq, false), (.nmiSeq, false), (.instr 0x00, true)]

/-- The vector of an entry (R412). -/
def entryVector (q : Seq) (s : State) : Word :=
  if q = .nmiSeq ∨ s.cpu.nmiPending = true then s.params.vecNmi else s.params.vecIrq

theorem cpuCycle_entry {p : Seq × Bool} (hp : p ∈ entries) {s : State} (hseq : s.cpu.seq = p.1) (ht : 3 ≤ s.cpu.t) :
    cpuCycle s = entryCycle p.2 (entryVector p.1) s := by
  have ht' : ¬ s.cpu.t ≤ 2 := by omega
  have hselect (q : Seq) (hq : q ≠ .nmiSeq) : selectVector = entryVector q := by
    funext u
    simp only [selectVector, entryVector, hq, false_or]
  simp only [entries, List.mem_cons, List.not_mem_nil, or_false] at hp
  obtain rfl | rfl | rfl := hp <;> simp only [cpuCycle, hseq]
  · rw [interruptCycle, if_neg ht', ← hselect .irqSeq (by decide)]
  · rw [interruptCycle, if_neg ht']
    exact congrArg (entryCycle false · s) (funext fun _ => (if_pos (.inl rfl)).symm)
  · have hfetch : fetchAt 0x00 s.cpu.t = none := by
      have hlen : lengthOf 0x00 = 1 := rfl
      rw [fetchAt, hlen]
      simp
    have hbrk (c : Cpu) : latchedInstr 0x00 c = .brk := rfl
    simp only [instrCycle, hfetch, hbrk, exec]
    rw [execBrk, if_neg ht', ← hselect (.instr 0x00) (by decide)]

/-- The state after a cycle that has pushed `v` to RAM. -/
def pushed (v : Byte) (s : State) : State :=
  nextCycle (mapCpu decSp { s with ram := Cells.write s.ram (stackAddr s.cpu.sp).toNat v })

theorem pushCycle_pushed {s : State} (h : NoCartridge s) (v : Byte) :
    pushCycle v nextCycle s = .next (pushed v s) := pushCycle_of_busWrite (busWrite_stack h _ v) _

section Entry

variable {p : Seq × Bool} {s : State}

/-- T3 to T5: PC and P are pushed and the vector is chosen (R409, R412). -/
theorem cpuRun_entry_pushes (hp : p ∈ entries) (hseq : s.cpu.seq = p.1) (ht : s.cpu.t = 3) (hs : NoCartridge s) :
    cpuRun 3 s = .next { s with
      ram := Cells.write (Cells.write (Cells.write s.ram (stackAddr s.cpu.sp).toNat (hi s.cpu.pc))
        (stackAddr (s.cpu.sp - 1)).toNat (lo s.cpu.pc)) (stackAddr (s.cpu.sp - 2)).toNat (packP p.2 s.cpu)
      cpu := { s.cpu with sp := s.cpu.sp - 3, t := 6, ea := entryVector p.1 s } } := by
  have h3 : cpuCycle s = .next (pushed (hi s.cpu.pc) s) := by
    rw [cpuCycle_entry hp hseq (by omega)]
    simp only [entryCycle, ht, pushCycle_pushed hs]
  have h4 : cpuCycle (pushed (hi s.cpu.pc) s) = .next (pushed (lo s.cpu.pc) (pushed (hi s.cpu.pc) s)) := by
    have ht4 : (pushed (hi s.cpu.pc) s).cpu.t = 4 := congrArg (· + 1) ht
    rw [cpuCycle_entry (s := pushed _ s) hp hseq (by omega)]
    simp only [entryCycle, ht4]
    exact pushCycle_pushed (s := pushed _ s) hs _
  generalize hu : pushed (lo s.cpu.pc) (pushed (hi s.cpu.pc) s) = u at h4
  have hsu : NoCartridge u := hu ▸ hs
  have h5 : cpuCycle u = .next (mapCpu (fun c => { c with ea := entryVector p.1 u })
      (pushed (packP p.2 u.cpu) u)) := by
    have ht5 : u.cpu.t = 5 := by
      subst hu
      exact congrArg (· + 2) ht
    have hsequ : u.cpu.seq = p.1 := hu ▸ hseq
    rw [cpuCycle_entry hp hsequ (by omega)]
    simp only [entryCycle, ht5]
    exact pushCycle_of_busWrite (busWrite_stack hsu _ _) _
  rw [cpuRun_succ h3, cpuRun_succ h4, cpuRun_succ h5, ← hu]
  have hsp2 : s.cpu.sp - 1 - 1 = s.cpu.sp - 2 := by bv_omega
  have hsp3 : s.cpu.sp - 2 - 1 = s.cpu.sp - 3 := by bv_omega
  simp only [cpuRun, pushed, nextCycle, mapCpu, decSp, hsp2, hsp3, ht]
  rfl

/-- T6 and T7: the vector is read, I is set and PC loaded (R409, R413). -/
theorem cpuRun_entry_vector (hp : p ∈ entries) (hseq : s.cpu.seq = p.1) (ht : s.cpu.t = 6) {l h : Byte} {s1 s2 : State}
    (hl : busRead s.cpu.ea s = .next (l, s1)) (hh : busRead (s.cpu.ea + 1) s1 = .next (h, s2)) :
    cpuRun 2 s = .next { s2 with cpu := { s.cpu with
      seq := .handler, t := 1, data := l, i := true, pc := cat h l
      nmiPending := if s.cpu.ea = s.params.vecNmi then false else s.cpu.nmiPending } } := by
  have hcpu1 : s1.cpu = s.cpu := (busRead_frame hl).1
  have hcpu2 : s2.cpu = s.cpu := (busRead_frame hh).1.trans hcpu1
  have h6 : cpuCycle s = .next (nextCycle (mapCpu (vectorLow s.params.vecNmi l) s1)) := by
    rw [cpuCycle_entry hp hseq (by omega)]
    simp only [entryCycle, ht]
    exact readCycle_of_busRead hl _
  have h7 : cpuCycle (nextCycle (mapCpu (vectorLow s.params.vecNmi l) s1))
      = .next (enterHandler (mapCpu (fun c => { c with pc := cat h c.data })
          (nextCycle (mapCpu (vectorLow s.params.vecNmi l) s2)))) := by
    generalize hu : nextCycle (mapCpu (vectorLow s.params.vecNmi l) s1) = u
    have hucpu : u.cpu = { vectorLow s.params.vecNmi l s.cpu with t := 7 } := by
      simp [← hu, vectorLow, hcpu1, ht]
    have htu : u.cpu.t = 7 := by rw [hucpu]
    have hread : busRead (u.cpu.ea + 1) u = .next (h, nextCycle (mapCpu (vectorLow s.params.vecNmi l) s2)) := by
      rw [hucpu, ← hu]
      exact busRead_mapCpu (busRead_mapCpu hh _) _
    rw [cpuCycle_entry hp (by rw [hucpu]; exact hseq) (by omega)]
    simp only [entryCycle, htu]
    exact readCycle_of_busRead hread _
  rw [cpuRun_succ h6, cpuRun_succ h7]
  simp only [cpuRun, enterHandler, nextCycle, mapCpu, vectorLow, hcpu2]

/-- BRK after its signature byte is the common entry (R294). -/
theorem exec_brk_entry (ht : 3 ≤ s.cpu.t) : exec .brk s = entryCycle true selectVector s := if_neg (by omega)

end Entry

/-- Settles O36: the entry once for all three, then each cycle of BRK. -/
theorem interruptEntry : Obligations.InterruptEntry := by
  refine ⟨fun p hp s hseq => ⟨fun ht hs => ?_, fun l h s1 s2 ht => cpuRun_entry_vector hp hseq ht⟩,
    fun s s1 v hseq ht h => ?_, fun s s1 v ht h => ?_, fun s s1 ht h => ?_, fun s s1 ht h => ?_, fun s s1 ht h => ?_,
    fun s s1 l ht h => ?_, fun s s1 l ht h => ?_⟩
  · rw [cpuRun_entry_pushes hp hseq ht hs, hseq]
    rfl
  · have hdummy (vec : State → Word) : interruptCycle vec s = .next (nextCycle s1) :=
      (if_pos (by omega)).trans (dummyRead_of_busRead h)
    obtain hseq | hseq := hseq <;> simp only [cpuCycle, hseq, hdummy]
  · exact (if_pos (by omega)).trans (readCycle_of_busRead h _)
  all_goals
    rw [exec_brk_entry (by omega)]
    simp only [entryCycle, ht]
  · exact pushCycle_of_busWrite h _
  · exact pushCycle_of_busWrite h _
  · exact pushCycle_of_busWrite h _
  · have hcpu : s1.cpu = s.cpu := (busRead_frame h).1
    rw [readCycle_of_busRead h, ← hcpu]
    rfl
  · have hdata : s1.cpu.data = s.cpu.data := congrArg Cpu.data (busRead_frame h).1
    rw [readCycle_of_busRead h, ← hdata]
    rfl

end Sys2Proof.Machine
end

section
/-! The branches (R171, R183, R295 to R303, R408): not taken they end in T2, taken at the target. -/

namespace Sys2Proof.Machine

theorem StoresNothing.trans {s t u : State} (h : StoresNothing s t) (h' : StoresNothing t u) : StoresNothing s u := by
  obtain ⟨hram, hcolor, hddr, hport, hsound, hvic, hcia1, hcia2, hfixed⟩ := h
  obtain ⟨hram', hcolor', hddr', hport', hsound', hvic', hcia1', hcia2', hfixed'⟩ := h'
  refine ⟨fun a => (hram' a).trans (hram a), fun k => (hcolor' k).trans (hcolor k), hddr'.trans hddr,
    hport'.trans hport, hsound'.trans hsound, ?_, ?_, ?_, hfixed.trans hfixed'⟩
  · rw [hvic', hvic]
  · rw [hcia1', hcia1]
  · rw [hcia2', hcia2]

theorem runExec_succ {i : Instr} {s t : State} (h : exec i s = .next t) (k : Nat) :
    runExec i (k + 1) s = runExec i k t := by
  rw [runExec, h, andThen_next]

/-- Cycles of an instruction that stores nothing keep what one of them keeps. -/
theorem runExec_frame {i : Instr} (ho : ∀ c, storeAddr i c = none) {k : Nat} {s t : State}
    (h : runExec i k s = .next t) : Keeps (profileOf i).writes s.cpu t.cpu ∧ StoresNothing s t := by
  induction k generalizing s with
  | zero =>
    cases h
    exact ⟨Keeps.refl _ _, StoresNothing.refl _⟩
  | succ k ih =>
    obtain ⟨u, hu, hrest⟩ := andThen_eq_next.1 h
    obtain ⟨hkeeps, hstores⟩ := exec_frame rfl (ho s.cpu) hu
    obtain ⟨hkeeps', hstores'⟩ := ih hrest
    exact ⟨hkeeps.trans hkeeps', hstores.trans hstores'⟩

section Branch

variable {taken : Cpu → Bool} {off : Byte} {s : State}

theorem branch_not_taken (ht : s.cpu.t = 2) (h : taken s.cpu = false) :
    branch taken off s = .next (endInstr (mapCpu (fun c => { c with taken := false }) s)) := by
  rw [branch, if_pos (by omega), if_neg (by simp [h])]

theorem branch_taken (ht : s.cpu.t = 2) (h : taken s.cpu = true) :
    branch taken off s = .next (nextCycle (mapCpu (fun c => { c with
      taken := true, ea := s.cpu.pc + sext16 off, crossed := hi (s.cpu.pc + sext16 off) != hi c.pc }) s)) := by
  rw [branch, if_pos (by omega), if_pos h]

/-- T3 loads the target's low byte, and ends the branch where the page is the target's (R183). -/
theorem branch_three (hs : NoCartridge s) (ht : s.cpu.t = 3) :
    ∃ u, branch taken off s = .next u ∧ u.cpu.pc = cat (hi s.cpu.pc) (lo s.cpu.ea) ∧ u.cpu.ea = s.cpu.ea
      ∧ u.host = s.host ∧ if s.cpu.crossed then u.cpu.t = 4 else u.cpu.seq = .boundary := by
  obtain ⟨v, s1, hread⟩ := busRead_answers hs s.cpu.pc
  obtain ⟨hcpu, -, -, -, -, -, -, -, -, -, hhost, -⟩ := busRead_frame hread
  rw [branch, if_neg (by omega), if_pos ht, readCycle_of_busRead hread]
  refine ⟨_, rfl, ?_⟩
  split <;> simp [hcpu, hhost, ht]

/-- T4 loads its high byte. -/
theorem branch_four (hs : NoCartridge s) (ht : s.cpu.t = 4) :
    ∃ u, branch taken off s = .next u ∧ u.cpu.pc = s.cpu.ea ∧ u.cpu.seq = .boundary := by
  obtain ⟨v, s1, hread⟩ := busRead_answers (s := poll s) hs s.cpu.pc
  have hea : s1.cpu.ea = (poll s).cpu.ea := congrArg Cpu.ea (busRead_frame hread).1
  rw [branch, if_neg (by omega), if_neg (by omega), lastRead_of_busRead hread]
  exact ⟨_, rfl, hea, rfl⟩

/-- A taken branch ends at its target (R171, R183). -/
theorem runExec_branch_taken {i : Instr} (hexec : ∀ s, exec i s = branch taken off s) (hs : NoCartridge s)
    (ht : s.cpu.t = 2) (h : taken s.cpu = true) :
    ∃ t, runExec i (if hi (s.cpu.pc + sext16 off) = hi s.cpu.pc then 2 else 3) s = .next t
      ∧ t.cpu.seq = .boundary ∧ t.cpu.pc = s.cpu.pc + sext16 off := by
  have h2 := (hexec s).trans (branch_taken (off := off) ht h)
  generalize htarget : s.cpu.pc + sext16 off = target at h2 ⊢
  generalize hu : nextCycle (mapCpu (fun c : Cpu => { c with
    taken := true, ea := target, crossed := hi target != hi c.pc }) s) = u at h2
  have hsu : NoCartridge u := hu ▸ hs
  have htu : u.cpu.t = 3 := by simp [← hu, ht]
  have hcrossed : u.cpu.crossed = (hi target != hi s.cpu.pc) := by rw [← hu]; rfl
  have hea : u.cpu.ea = target := by rw [← hu]; rfl
  have hpc : u.cpu.pc = s.cpu.pc := by rw [← hu]; rfl
  obtain ⟨w, hw, hwpc, hwea, hwhost, hwend⟩ := branch_three (taken := taken) (off := off) hsu htu
  have h3 := (hexec u).trans hw
  split_ifs with hpage
  · refine ⟨w, (runExec_succ h2 1).trans (runExec_succ h3 0), ?_, ?_⟩
    · simpa [hcrossed, hpage] using hwend
    · rw [hwpc, hpc, hea, ← hpage, cat_hi_lo]
  · have htw : w.cpu.t = 4 := by simpa [hcrossed, hpage] using hwend
    have hsw : NoCartridge w := by rw [NoCartridge, hwhost]; exact hsu
    obtain ⟨x, hx, hxpc, hxseq⟩ := branch_four (taken := taken) (off := off) hsw htw
    have h4 := (hexec w).trans hx
    exact ⟨x, (runExec_succ h2 2).trans ((runExec_succ h3 1).trans (runExec_succ h4 0)), hxseq,
      hxpc.trans (hwea.trans hea)⟩

end Branch

/-- The eight branches, each with the flag it tests (R296 to R303). -/
theorem branches_exec {p : (Byte → Instr) × (Cpu → Bool)}
    (hp : p ∈ [(Instr.bpl, fun c : Cpu => !c.n), (.bmi, fun c => c.n), (.bvc, fun c => !c.v), (.bvs, fun c => c.v),
      (.bcc, fun c => !c.c), (.bcs, fun c => c.c), (.bne, fun c => !c.z), (.beq, fun c => c.z)]) (off : Byte) :
    (∀ s, exec (p.1 off) s = branch p.2 off s) ∧ profileOf (p.1 off) = branchProfile
      ∧ ∀ c, storeAddr (p.1 off) c = none := by
  simp only [List.mem_cons, List.not_mem_nil, or_false] at hp
  obtain rfl | rfl | rfl | rfl | rfl | rfl | rfl | rfl := hp <;> exact ⟨fun _ => rfl, rfl, fun _ => rfl⟩

/-- Settles O33: all eight are `branch`, and its frame is that of its cycles. -/
theorem branchAnswer : Obligations.BranchAnswer := by
  intro p hp off s ht
  obtain ⟨hexec, hprofile, hstore⟩ := branches_exec hp off
  refine ⟨fun hn => (hexec s).trans (branch_not_taken ht hn), fun htaken hs => ?_⟩
  obtain ⟨t, hrun, hseq, hpc⟩ := runExec_branch_taken hexec hs ht htaken
  obtain ⟨hkeeps, hstores⟩ := runExec_frame hstore hrun
  rw [hprofile] at hkeeps
  exact ⟨t, hrun, hseq, hpc, hkeeps, hstores⟩

end Sys2Proof.Machine
end

section
/-! The cycles that fetch (R170, R172, R177), the step around the CPU's cycle (R500, R502), JAM (R186, R333), and how many
cycles an instruction runs (R188). -/

namespace Sys2Proof.Machine

/-! ## The latched bytes -/

theorem instrOf_formatBytes (op b1 b2 : Byte) :
    instrOf op ((formatBytes (rowOf op).2 b1 b2).getD 0 0) ((formatBytes (rowOf op).2 b1 b2).getD 1 0)
      = instrOf op b1 b2 := by
  rw [← operandBytes_instrOf, instrOf_operandBytes (opcode?_wf_instrOf op b1 b2).1]

/-- Operand bytes that the format does not have are ignored. -/
theorem instrOf_of_length_two {op : Byte} (h : lengthOf op = 2) (b1 b2 : Byte) : instrOf op b1 b2 = instrOf op b1 0 := by
  have hbytes (b : Byte) : formatBytes (rowOf op).2 b1 b = [b1] := by
    have hlen : (rowOf op).2.length = 2 := h
    simp [formatBytes, hlen]
  rw [← instrOf_formatBytes op b1 b2, ← instrOf_formatBytes op b1 0, hbytes, hbytes]

/-- Three bytes are enough for any opcode. -/
theorem eq_of_decode_three {op b1 b2 : Byte} {i : Instr} {rest : List Byte}
    (h : decode [op, b1, b2] = .instr i rest) : i = instrOf op b1 b2 := by
  have hlen : lengthOf op = 1 + (formatBytes (rowOf op).2 b1 b2).length := by
    unfold lengthOf formatBytes
    cases (rowOf op).2 <;> rfl
  have hdecode := decode_append hlen ([b1, b2].drop ((rowOf op).2.length - 1))
  rw [formatBytes, List.take_append_drop, h] at hdecode
  cases hdecode
  exact instrOf_formatBytes op b1 b2

theorem fetchAt_first {op : Byte} {t : Nat} (h : fetchAt op t = some .first) : t = 2 := by
  unfold fetchAt at h
  split at h
  next h2 => exact h2.1
  next => simp at h

/-- An instruction that operates on its first operand byte has no other. -/
theorem lengthOf_operatesOnFetch_two {op : Byte} (h : operatesOnFetch op 2 = true) : lengthOf op = 2 := by
  unfold operatesOnFetch at h
  unfold lengthOf
  cases hmd : (rowOf op).2 <;> simp [hmd, Mode.length] at h ⊢

/-! ## The CPU cycle, case by case (R170) -/

section Cycles

variable {s s1 : State} {op : Byte}

theorem cpuCycle_of_fetchNext (h : FetchNext s) : cpuCycle s = opcodeCycle s := by
  obtain ⟨⟨hseq, -⟩, hpoll⟩ := h
  obtain hseq | hseq := hseq
  · obtain hpoll | ⟨hnmi, hirq⟩ := hpoll
    · simp [hseq] at hpoll
    · simp [cpuCycle, hseq, hnmi, hirq]
  · simp only [cpuCycle, hseq]

/-- T1, and with a JAM the halt (R186). -/
theorem opcodeCycle_of_busRead (h : busRead s.cpu.pc s = .next (op, s1)) :
    opcodeCycle s = .next (mapCpu (fun c => { c with
      pc := c.pc + 1, seq := .instr op, t := 2, jammed := if (rowOf op).1 = .jam then true else c.jammed }) s1) := by
  simp only [opcodeCycle, h, andThen_next]
  by_cases hjam : (rowOf op).1 = .jam
  · simp only [if_pos hjam, latchedInstr, instrOf_jam hjam]
    rfl
  · simp only [if_neg hjam]

theorem cpuCycle_of_instr (h : s.cpu.seq = .instr op) : cpuCycle s = instrCycle op s := by
  simp only [cpuCycle, h]

theorem instrCycle_of_fetch {f : Fetch} (hf : fetchAt op s.cpu.t = some f) (hop : operatesOnFetch op s.cpu.t = false) :
    instrCycle op s = readCycle s.cpu.pc (fun v s' => nextCycle (mapCpu (latchOperand f v) s')) s := by
  simp [instrCycle, hf, operandCycle, hop]

theorem instrCycle_of_operates {f : Fetch} (hf : fetchAt op s.cpu.t = some f)
    (hop : operatesOnFetch op s.cpu.t = true) :
    instrCycle op s = andThen (busRead s.cpu.pc (poll s)) fun r =>
      exec (latchedInstr op (latchOperand f r.1 r.2.cpu)) (mapCpu (latchOperand f r.1) r.2) := by
  simp [instrCycle, hf, operandCycle, hop]

theorem instrCycle_of_no_fetch (hf : fetchAt op s.cpu.t = none) :
    instrCycle op s = exec (latchedInstr op s.cpu) s := by
  simp only [instrCycle, hf]

end Cycles

/-- Settles O5: what each fetch reads and latches, and that three bytes decode to the instruction latched. -/
theorem fetchCycles : Obligations.FetchCycles := by
  refine ⟨fun s s1 op hnext h hjam => ?_, fun s s1 op b hseq hf hop h => ?_, fun s s1 op b hseq hf hop h => ?_,
    fun s s1 op b i rest hseq hf hop h hi => ?_, fun s s1 op b i rest hseq hf hop h hi => ?_⟩
  · rw [cpuCycle_of_fetchNext hnext, opcodeCycle_of_busRead h]
    simp only [if_neg hjam]
  · rw [cpuCycle_of_instr hseq, instrCycle_of_fetch hf hop, readCycle_of_busRead h]
    rfl
  · rw [cpuCycle_of_instr hseq, instrCycle_of_fetch hf hop, readCycle_of_busRead h]
    rfl
  · have hlen : lengthOf op = 2 := lengthOf_operatesOnFetch_two (fetchAt_first hf ▸ hop)
    rw [cpuCycle_of_instr hseq, instrCycle_of_operates hf hop, h, eq_of_decode_three hi]
    exact congrArg (exec · _) (instrOf_of_length_two hlen b _)
  · have hptr : s1.cpu.ptr = (poll s).cpu.ptr := congrArg Cpu.ptr (busRead_frame h).1
    have hlatched : latchedInstr op (latchOperand .second b s1.cpu) = instrOf op s.cpu.ptr b := by
      simp [latchedInstr, latchOperand, hptr]
    rw [cpuCycle_of_instr hseq, instrCycle_of_operates hf hop, h, eq_of_decode_three hi, andThen_next, hlatched]
    rfl

/-! ## The step around the CPU's cycle (R500) -/

theorem step_of_runs {s : State} (hadm : admitted (supplied s) = true) (hstall : stalls (supplied s) = false)
    (hjam : (supplied s).cpu.jammed = false) :
    step s = andThen (cpuCycle (beforeCpu (cycleIn s) (supplied s))) fun t => .next (afterCpu t) := by
  simp [step, masterCycle, hadm, hstall, stageD, hjam]

/-- Settles O4: the stages of the step, and the instruction the latched bytes decode to. -/
theorem stepRunsDecoded : Obligations.StepRunsDecoded := by
  refine ⟨fun s => step_of_runs, fun inp s t ht => ht ▸ rfl, fun s op i rest hres hadm hstall hjam hseq hi hf => ?_⟩
  have hcpu : (supplied s).cpu = s.cpu := by rw [supplied_noReset hres]
  rw [step_of_runs hadm hstall (hcpu ▸ hjam), cpuCycle_of_instr (op := op) (by rw [beforeCpu_cpu, hcpu, hseq]),
    instrCycle_of_no_fetch (by rw [beforeCpu_cpu, hcpu, hf]), eq_of_decode_three hi, latchedInstr, beforeCpu_cpu, hcpu]

/-! ## JAM (R186, R333) -/

/-- Stage (f) moves no interrupt line. -/
theorem lines_afterCpu (s : State) : irqLine (afterCpu s) = irqLine s ∧ nmiLine (afterCpu s) = nmiLine s := by
  have hadvance (p : Params) (v : Vic) : vicIrq (vicAdvance p v) = vicIrq v := by
    unfold vicAdvance
    split_ifs <;> rfl
  exact ⟨congrArg (· || ciaIr s.cia1 || s.host.irqExt) (hadvance s.params s.vic), rfl⟩

theorem step_of_jammed {s : State} (hadm : admitted (supplied s) = true) (hjam : (supplied s).cpu.jammed = true) :
    step s = .next (afterCpu (beforeCpu (cycleIn s) (supplied s))) := by
  simp [step, masterCycle, hadm, stageD, hjam]

/-- Settles O7: the halt in T1, the stages around a halted CPU, and the reset that ends it. -/
theorem jamHalts : Obligations.JamHalts := by
  refine ⟨fun op s => rfl, fun s s1 op hnext h hop => ?_, fun s hres hadm hjam => ?_, fun s => ⟨rfl, rfl⟩⟩
  · have hrows : ∀ op ∈ jamOpcodes, (rowOf op).1 = .jam := by decide
    rw [cpuCycle_of_fetchNext hnext, opcodeCycle_of_busRead h]
    simp only [if_pos (hrows op hop)]
  · have hcpu : (supplied s).cpu = s.cpu := by rw [supplied_noReset hres]
    obtain ⟨hirq, hnmi⟩ := lines_afterCpu (beforeCpu (cycleIn s) (supplied s))
    refine ⟨_, step_of_jammed hadm (hcpu ▸ hjam), rfl, ?_, ?_⟩
    · rw [hirq, hnmi, afterCpu_cpu, beforeCpu_cpu, hcpu]
    · rw [supplied_noReset hres]
      exact ⟨rfl, rfl, rfl, rfl, rfl, rfl, rfl⟩

end Sys2Proof.Machine
end

section
/-! How many cycles an instruction runs (R188, R540): no cycle before its published count ends it, and the sequencer
allows none after its penalties. -/

namespace Sys2Proof.Machine

/-! ## Cycles that go on -/

section GoesOn

variable {s t : State}

theorem readCycle_seq {a : Word} {g : Byte → Cpu → Cpu} (hg : ∀ v c, (g v c).seq = c.seq)
    (h : readCycle a (fun v s' => nextCycle (mapCpu (g v) s')) s = .next t) : t.cpu.seq = s.cpu.seq := by
  obtain ⟨v, s1, hread, rfl⟩ := readCycle_eq_next.1 h
  exact (hg v _).trans (congrArg Cpu.seq (busRead_frame hread).1)

theorem writeCycle_seq {a : Word} {v : Byte} {g : Cpu → Cpu} (hg : ∀ c, (g c).seq = c.seq)
    (h : writeCycle a v (fun s' => nextCycle (mapCpu g s')) s = .next t) : t.cpu.seq = s.cpu.seq := by
  obtain ⟨s1, hwrite, rfl⟩ := writeCycle_eq_next.1 h
  exact (hg _).trans (congrArg Cpu.seq (busWrite_frame hwrite).1)

theorem dummyRead_seq {a : Word} (h : dummyRead a s = .next t) : t.cpu.seq = s.cpu.seq :=
  readCycle_seq (g := fun _ c => c) (fun _ _ => rfl) h

theorem stackBump_seq (h : stackBump s = .next t) : t.cpu.seq = s.cpu.seq :=
  readCycle_seq (g := fun _ => incSp) (fun _ _ => rfl) h

theorem pushCycle_seq {v : Byte} (h : pushCycle v nextCycle s = .next t) : t.cpu.seq = s.cpu.seq :=
  writeCycle_seq (g := decSp) (fun _ => rfl) h

theorem leadCycle_seq {m : Mem} (h : leadCycle m s = .next t) : t.cpu.seq = s.cpu.seq := by
  have hcycle := leadCycle_cycle (p := ⟨[], s.cpu.t + 1, fun _ => false, fun _ => false⟩) (Nat.lt_succ_self _) h
  cases hcycle.progress with
  | goesOn _ hseq => exact hseq
  | polled hp => cases hp
  | bare hb => cases hb
  | halts _ _ hw => cases hw

end GoesOn

/-! ## The cycles that may end an instruction -/

/-- A cycle in which a read with this operand may end: the datum's, or the fix-up before it (R173). -/
def readMayEnd (m : Mem) (t : Nat) : Bool := decide (datumCycle m ≤ t) || (decide (datumCycle m ≤ t + 1) && hasFixup m)

/-- The same, with a source: an immediate ends on its fetch (R172). -/
def srcMayEnd : Src → Nat → Bool
  | .imm _, _ => true
  | .mem m, t => readMayEnd m t

/-- The same, of a NOP. -/
def nopMayEnd : NopArg → Nat → Bool
  | .implied, _ | .imm _, _ => true
  | .mem m, t => readMayEnd m t

/-- The same, of a shift or rotate: the second write of a read-modify-write (R174). -/
def dstMayEnd : Dst → Nat → Bool
  | .acc, _ => true
  | .mem m, t => decide (datumCycle m + 2 ≤ t)

/-- The same, of JMP (R181, R182). -/
def jumpMayEnd : JumpTo → Nat → Bool
  | .abs _, _ => true
  | .ind _, t => decide (5 ≤ t)

/-- A cycle `t`, from T2 on, in which an instruction may end (R172 to R183). -/
def mayEnd (i : Instr) (t : Nat) : Bool :=
  match i with
  | .lda o | .ldx o | .ldy o | .adc o | .sbc o | .cmp o | .cpx o | .cpy o | .and o | .ora o | .eor o => srcMayEnd o t
  | .bit m | .lax m | .las m => readMayEnd m t
  | .nop _ n => nopMayEnd n t
  | .sta m | .stx m | .sty m | .sax m | .sha m | .shx m | .shy m | .tas m => decide (datumCycle m ≤ t)
  | .inc m | .dec m | .slo m | .rla m | .sre m | .rra m | .dcp m | .isc m => decide (datumCycle m + 2 ≤ t)
  | .asl d | .lsr d | .rol d | .ror d => dstMayEnd d t
  | .pha | .php => decide (3 ≤ t)
  | .pla | .plp => decide (4 ≤ t)
  | .rts | .rti => decide (6 ≤ t)
  | .jmp j => jumpMayEnd j t
  | .jsr _ => !(t == 3 || t == 4 || t == 5)
  | .brk => decide (7 ≤ t)
  | .tax | .tay | .txa | .tya | .tsx | .txs | .inx | .iny | .dex | .dey | .clc | .sec | .cli | .sei | .cld | .sed | .clv
  | .lxa _ | .anc _ _ | .alr _ | .arr _ | .ane _ | .sbx _ | .usbc _ | .jam _
  | .bpl _ | .bmi _ | .bvc _ | .bvs _ | .bcc _ | .bcs _ | .bne _ | .beq _ => true

/-- An instruction of a row may end in the same cycles whatever its operand bytes are. -/
theorem mayEnd_instrOf (op b1 b2 : Byte) (t : Nat) :
    mayEnd (instrOf op b1 b2) t = mayEnd (buildInstr (rowOf op).1 (rowOf op).2 0 0 0) t := by
  rw [instrOf]
  generalize rowOf op = r
  obtain ⟨mn, md⟩ := r
  have hread : readMayEnd (memOf md b1 b2) t = readMayEnd (memOf md 0 0) t := by cases md <;> rfl
  have hdatum : datumCycle (memOf md b1 b2) = datumCycle (memOf md 0 0) := by cases md <;> rfl
  have hsrc : srcMayEnd (srcOf md b1 b2) t = srcMayEnd (srcOf md 0 0) t := by cases md <;> rfl
  have hdst : dstMayEnd (dstOf md b1 b2) t = dstMayEnd (dstOf md 0 0) t := by cases md <;> rfl
  have hnop : nopMayEnd (nopOf md b1 b2) t = nopMayEnd (nopOf md 0 0) t := by cases md <;> rfl
  have hjump : jumpMayEnd (jumpOf md b1 b2) t = jumpMayEnd (jumpOf md 0 0) t := by cases md <;> rfl
  cases mn <;> simp only [buildInstr, mayEnd, hread, hdatum, hsrc, hdst, hnop, hjump]

/-- The map, checked entry by entry: before its published count an opcode has no cycle, apart from fetches on which it
does not operate, in which it may end. -/
theorem row_mayEnd (op : Byte) : ∀ t ∈ List.range' 2 7, t < baseCycles op →
    (fetchAt op t).isSome = false ∨ operatesOnFetch op t = true →
    mayEnd (buildInstr (rowOf op).1 (rowOf op).2 0 0 0) t = false := by
  unfold baseCycles fetchAt operatesOnFetch lengthOf
  obtain ⟨rows, hrows, hr⟩ := rowOf_mem_rows op
  generalize rowOf op = r at hr ⊢
  revert r
  revert rows
  decide

section Ends

variable {m : Mem} {s t : State}

theorem readMem_goesOn {op : Byte → Cpu → Cpu} (h : readMem m op s = .next t) (hend : readMayEnd m s.cpu.t = false) :
    t.cpu.seq = s.cpu.seq := by
  have hlead : readsDatum m s = false := by
    simp only [readMayEnd, Bool.or_eq_false_iff, Bool.and_eq_false_iff] at hend
    simp only [readsDatum, Bool.or_eq_false_iff, Bool.and_eq_false_iff]
    exact ⟨hend.1, .inl hend.2⟩
  exact leadCycle_seq (readMem_lead hlead op ▸ h)

theorem writeMem_goesOn {value : Cpu → Byte} (h : writeMem m value s = .next t)
    (hend : decide (datumCycle m ≤ s.cpu.t) = false) : t.cpu.seq = s.cpu.seq :=
  leadCycle_seq (writeMem_lead (by simpa using hend) value ▸ h)

theorem unstableStore_goesOn {reg : Cpu → Byte} {after : Cpu → Cpu} (h : unstableStore m reg after s = .next t)
    (hend : decide (datumCycle m ≤ s.cpu.t) = false) : t.cpu.seq = s.cpu.seq :=
  leadCycle_seq (unstableStore_lead (by simpa using hend) reg after ▸ h)

theorem rmwMem_goesOn {operate : Byte → Cpu → Byte × Cpu} {final : Byte → Cpu → Cpu}
    (hop : ∀ v c, (operate v c).2.seq = c.seq) (h : rmwMem m operate final s = .next t)
    (hend : decide (datumCycle m + 2 ≤ s.cpu.t) = false) : t.cpu.seq = s.cpu.seq := by
  have hlt := of_decide_eq_false hend
  unfold rmwMem at h
  split_ifs at h
  · exact leadCycle_seq h
  · exact readCycle_seq (g := fun v c => { c with data := v }) (fun _ _ => rfl) h
  · exact writeCycle_seq (g := fun c => { (operate c.data c).2 with data := (operate c.data c).1 })
      (fun c => hop c.data c) h
  · omega

theorem shiftThen_goesOn {f : Byte → Bool → Byte × Bool} {final : Byte → Cpu → Cpu}
    (h : shiftThen m f final s = .next t) (hend : decide (datumCycle m + 2 ≤ s.cpu.t) = false) :
    t.cpu.seq = s.cpu.seq :=
  rmwMem_goesOn (operate := fun v c => ((f v c.c).1, { c with c := (f v c.c).2 })) (fun _ _ => rfl) h hend

theorem readSrc_goesOn {o : Src} {op : Byte → Cpu → Cpu} (h : readSrc o op s = .next t)
    (hend : srcMayEnd o s.cpu.t = false) : t.cpu.seq = s.cpu.seq := by
  cases o
  · cases hend
  · exact readMem_goesOn h hend

theorem shiftDst_goesOn {d : Dst} {f : Byte → Bool → Byte × Bool} (h : shiftDst d f s = .next t)
    (hend : dstMayEnd d s.cpu.t = false) : t.cpu.seq = s.cpu.seq := by
  cases d with
  | acc => cases hend
  | mem m =>
    simp only [shiftDst] at h
    exact rmwMem_goesOn (fun _ _ => rfl) h hend

theorem entryCycle_goesOn {b : Bool} {vec : State → Word} (h3 : 3 ≤ s.cpu.t) (h7 : s.cpu.t < 7)
    (h : entryCycle b vec s = .next t) : t.cpu.seq = s.cpu.seq := by
  unfold entryCycle at h
  split at h
  · exact pushCycle_seq h
  · exact pushCycle_seq h
  · exact writeCycle_seq (g := fun c => { decSp c with ea := vec s }) (fun _ => rfl) h
  · exact readCycle_seq (g := vectorLow s.params.vecNmi) (fun _ _ => rfl) h
  next ht3 ht4 ht5 ht6 =>
    have hne : s.cpu.t ≠ 3 ∧ s.cpu.t ≠ 4 ∧ s.cpu.t ≠ 5 ∧ s.cpu.t ≠ 6 := ⟨ht3, ht4, ht5, ht6⟩
    omega

theorem returnCycle_goesOn (h2 : 2 ≤ s.cpu.t) (h6 : s.cpu.t < 6) (h : returnCycle s = .next t) :
    t.cpu.seq = s.cpu.seq := by
  unfold returnCycle at h
  split at h
  · exact dummyRead_seq h
  · exact stackBump_seq h
  · exact readCycle_seq (g := fun v c => incSp (unpackP v c)) (fun _ _ => rfl) h
  · exact readCycle_seq (g := fun v c => incSp { c with data := v }) (fun _ _ => rfl) h
  next ht2 ht3 ht4 ht5 =>
    have hne : s.cpu.t ≠ 2 ∧ s.cpu.t ≠ 3 ∧ s.cpu.t ≠ 4 ∧ s.cpu.t ≠ 5 := ⟨ht2, ht3, ht4, ht5⟩
    omega

theorem execRts_goesOn (h2 : 2 ≤ s.cpu.t) (h6 : s.cpu.t < 6) (h : execRts s = .next t) :
    t.cpu.seq = s.cpu.seq := by
  unfold execRts at h
  split at h
  · exact dummyRead_seq h
  · exact stackBump_seq h
  · exact readCycle_seq (g := fun v c => incSp { c with data := v }) (fun _ _ => rfl) h
  · exact readCycle_seq (g := fun v c => { c with pc := cat v c.data }) (fun _ _ => rfl) h
  next ht2 ht3 ht4 ht5 =>
    have hne : s.cpu.t ≠ 2 ∧ s.cpu.t ≠ 3 ∧ s.cpu.t ≠ 4 ∧ s.cpu.t ≠ 5 := ⟨ht2, ht3, ht4, ht5⟩
    omega

/-- In a cycle in which it may not end, an instruction goes on. -/
theorem exec_goesOn {i : Instr} (h2 : 2 ≤ s.cpu.t) (h : exec i s = .next t) (hend : mayEnd i s.cpu.t = false) :
    t.cpu.seq = s.cpu.seq := by
  cases i <;> simp only [exec] at h <;> simp only [mayEnd, Bool.true_eq_false, decide_eq_false_iff_not] at hend
  case lda | ldx | ldy | adc | sbc | cmp | cpx | cpy | and | ora | eor => exact readSrc_goesOn h hend
  case bit | lax | las => exact readMem_goesOn h hend
  case nop op n =>
    cases n with
    | implied | imm v => cases hend
    | mem m => exact readMem_goesOn h hend
  case sta | stx | sty | sax => exact writeMem_goesOn h (decide_eq_false hend)
  case sha | shx | shy | tas => exact unstableStore_goesOn h (decide_eq_false hend)
  case inc | dec | dcp | isc => exact rmwMem_goesOn (fun _ _ => rfl) h (decide_eq_false hend)
  case slo | rla | sre | rra => exact shiftThen_goesOn h (decide_eq_false hend)
  case asl | lsr | rol | ror => exact shiftDst_goesOn h hend
  case pha | php =>
    have ht : s.cpu.t ≤ 2 := by omega
    simp only [execPha, execPhp, if_pos ht] at h
    exact dummyRead_seq h
  case pla | plp =>
    simp only [execPla, execPlp] at h
    split at h
    · exact dummyRead_seq h
    · exact stackBump_seq h
    next ht2 ht3 =>
      have hne : s.cpu.t ≠ 2 ∧ s.cpu.t ≠ 3 := ⟨ht2, ht3⟩
      omega
  case rts => exact execRts_goesOn h2 (by omega) h
  case rti => exact returnCycle_goesOn h2 (by omega) h
  case jmp j =>
    cases j with
    | abs w => cases hend
    | ind w =>
      have ht : s.cpu.t ≤ 4 := by
        simp only [jumpMayEnd, decide_eq_false_iff_not] at hend
        omega
      simp only [execJmp, if_pos ht] at h
      exact readCycle_seq (g := fun v c => { c with data := v }) (fun _ _ => rfl) h
  case jsr w =>
    unfold execJsr at h
    split at h
    · exact dummyRead_seq h
    · exact pushCycle_seq h
    · exact pushCycle_seq h
    next h3 h4 h5 =>
      have hne : s.cpu.t ≠ 3 ∧ s.cpu.t ≠ 4 ∧ s.cpu.t ≠ 5 := ⟨h3, h4, h5⟩
      simp [hne] at hend
  case brk =>
    unfold execBrk at h
    split at h
    · exact readCycle_seq (g := fun _ c => { c with pc := c.pc + 1 }) (fun _ _ => rfl) h
    · exact entryCycle_goesOn (by omega) (by omega) h

end Ends

/-! ## The run of an instruction -/

section Run

variable {op : Byte} {s t : State}

/-- The next cycle of an instruction, or its end, not before its published count. -/
def Advances (op : Byte) (s t : State) : Prop :=
  (InInstr op t.cpu ∧ t.cpu.t = s.cpu.t + 1) ∨ (Between t ∧ baseCycles op ≤ s.cpu.t)

theorem cpuCycle_noCartridge (h : cpuCycle s = .next t) (hs : NoCartridge s) : NoCartridge t := by
  obtain ⟨-, -, -, -, hhost, -⟩ := cpuCycle_fixed h
  rw [NoCartridge, hhost]
  exact hs

/-- A cycle in which the instruction of the opcode works. -/
theorem exec_advances {u : State} {b1 b2 : Byte} (hin : InInstr op s.cpu) (ht : s.cpu.t = u.cpu.t)
    (hfetch : (fetchAt op u.cpu.t).isSome = false ∨ operatesOnFetch op u.cpu.t = true)
    (h : exec (instrOf op b1 b2) s = .next t) : Advances op u t := by
  obtain ⟨h8, hrow, -⟩ := row_cycles op
  obtain ⟨-, -, hjam⟩ := hrow hin.row
  have hok : SequencerOk t := exec_sequencerOk hin (profileOf_instrOf op b1 b2) h
  have hcycle := exec_cycle h
  rw [profileOf_instrOf] at hcycle
  obtain ⟨⟨-, -, -, -, -, -, -, -, -, -, -, -, hkeep, -⟩, -, hprogress⟩ := hcycle
  have hruns : t.cpu.jammed = false := (hkeep hjam).trans hin.running
  have hends (hseq : t.cpu.seq = .boundary ∨ t.cpu.seq = .handler) : Advances op u t := by
    refine .inr ⟨⟨hseq, hruns⟩, ?_⟩
    by_contra hearly
    have hfirst := hin.first
    have hlast := hin.last
    have hend : mayEnd (instrOf op b1 b2) s.cpu.t = false := by
      rw [mayEnd_instrOf, ht]
      exact row_mayEnd op _ (by simp only [List.mem_range'_1]; omega) (by omega) hfetch
    have hsame := (exec_goesOn hfirst h hend).trans hin.seq
    simp [hsame] at hseq
  cases hprogress with
  | goesOn _ hseq hnext => exact .inl ⟨hok.inInstr (hseq.trans hin.seq) hruns, ht ▸ hnext⟩
  | polled _ hseq => exact hends (.inl hseq)
  | bare _ hseq => exact hends hseq
  | halts _ _ hw => exact absurd hw hjam

theorem cpuCycle_advances (hin : InInstr op s.cpu) (h : cpuCycle s = .next t) : Advances op s t := by
  have hok := cpuCycle_sequencerOk hin.sequencerOk hin.running h
  rw [cpuCycle_of_instr hin.seq] at h
  cases hf : fetchAt op s.cpu.t with
  | none =>
    rw [instrCycle_of_no_fetch hf] at h
    exact exec_advances hin rfl (.inl (by simp [hf])) h
  | some f =>
    cases hop : operatesOnFetch op s.cpu.t with
    | true =>
      rw [instrCycle_of_operates hf hop] at h
      obtain ⟨⟨v, s1⟩, hread, hexec⟩ := andThen_eq_next.1 h
      have hcpu : s1.cpu = (poll s).cpu := (busRead_frame hread).1
      have hpoll : InInstr op (poll s).cpu := ⟨hin.seq, hin.running, hin.row, hin.first, hin.last⟩
      have hin1 : InInstr op (latchOperand f v s1.cpu) := hcpu ▸ hpoll.latchOperand f v
      have ht1 : (latchOperand f v s1.cpu).t = s.cpu.t := by
        rw [(latchOperand_sequencer f v s1.cpu).2.1, hcpu]
        rfl
      exact exec_advances (s := mapCpu (latchOperand f v) s1) hin1 ht1 (.inr hop) hexec
    | false =>
      rw [instrCycle_of_fetch hf hop] at h
      obtain ⟨v, s1, hread, rfl⟩ := readCycle_eq_next.1 h
      have hin1 : InInstr op (latchOperand f v s1.cpu) := (busRead_frame hread).1 ▸ hin.latchOperand f v
      refine .inl ⟨hok.inInstr hin1.seq hin1.running, ?_⟩
      exact congrArg (· + 1) ((latchOperand_sequencer f v s1.cpu).2.1.trans (congrArg Cpu.t (busRead_frame hread).1))

/-- In `k` more cycles the instruction runs to its end, not before its published count and not past its penalties. -/
def EndsIn (op : Byte) (k : Nat) (s t : State) : Prop :=
  baseCycles op < s.cpu.t + k ∧ s.cpu.t + k ≤ lastOf op + 1 ∧ cpuRun k s = .next t ∧ Between t
    ∧ ∀ j u, j < k → cpuRun j s = .next u → u.cpu.seq = .instr op

theorem EndsIn.succ {u : State} {k : Nat} (hin : InInstr op s.cpu) (h : cpuCycle s = .next t)
    (htick : t.cpu.t = s.cpu.t + 1) (hk : EndsIn op k t u) : EndsIn op (k + 1) s u := by
  obtain ⟨hlow, hhigh, hrun, hbetween, hinside⟩ := hk
  refine ⟨by omega, by omega, (cpuRun_succ h k).trans hrun, hbetween, fun j v hj hv => ?_⟩
  cases j with
  | zero =>
    cases hv
    exact hin.seq
  | succ j => exact hinside j v (by omega) ((cpuRun_succ h j).symm.trans hv)

theorem endsIn_one (hin : InInstr op s.cpu) (h : cpuCycle s = .next t) (hend : Between t)
    (hbase : baseCycles op ≤ s.cpu.t) : EndsIn op 1 s t := by
  have hlast := hin.last
  refine ⟨by omega, by omega, cpuRun_succ h 0, hend, fun j v hj hv => ?_⟩
  obtain rfl : j = 0 := by omega
  cases hv
  exact hin.seq

/-- From any of its cycles an instruction runs to its end, by induction on the cycles left. -/
theorem exists_endsIn {n : Nat} (hs : NoCartridge s) (hin : InInstr op s.cpu) (hn : lastOf op - s.cpu.t = n) :
    ∃ k t, EndsIn op k s t := by
  induction n using Nat.strong_induction_on generalizing s with
  | _ n ih =>
    obtain ⟨t, ht⟩ := cpuCycle_busAnswer.exists_next hs
    obtain ⟨hin1, htick⟩ | ⟨hend, hbase⟩ := cpuCycle_advances hin ht
    · have hlast := hin1.last
      obtain ⟨k, u, hk⟩ := ih _ (by omega) (cpuCycle_noCartridge ht hs) hin1 rfl
      exact ⟨k + 1, u, hk.succ hin ht htick⟩
    · exact ⟨1, t, endsIn_one hin ht hend hbase⟩

end Run

/-- Settles O8: T1, and then the instruction's cycles to its end. -/
theorem tableCycles : Obligations.TableCycles := by
  intro s s1 op hnext hs h hjam
  obtain ⟨-, hrow, -⟩ := row_cycles op
  have hfirst := (cpuCycle_of_fetchNext hnext).trans (opcodeCycle_of_busRead h)
  obtain ⟨⟨-, hruns⟩, -⟩ := hnext
  have hruns1 : s1.cpu.jammed = false := (congrArg Cpu.jammed (busRead_frame h).1).trans hruns
  obtain ⟨k, t, hlow, hhigh, hrun, hend, hinside⟩ := exists_endsIn (op := op) (cpuCycle_noCartridge hfirst hs)
    ⟨rfl, by simp [hjam, hruns1], hjam, Nat.le_refl 2, (hrow hjam).1⟩ rfl
  simp only [mapCpu_cpu, lastOf] at hlow hhigh
  refine ⟨k + 1, t, by omega, by omega, (cpuRun_succ hfirst k).trans hrun, hend, fun j u h0 hj hu => ?_⟩
  cases j with
  | zero => omega
  | succ j => exact hinside j u (by omega) ((cpuRun_succ hfirst j).symm.trans hu)

end Sys2Proof.Machine
end

section
/-! The last cycle of a read, of a write and of an implied instruction (R172, R173, R175), and with it the loads, stores,
transfers, register increments, flag instructions and NOPs (R201 to R212, R249 to R252, R310 to R317, R327, R328, R342). -/

namespace Sys2Proof.Machine

section LastCycle

variable {m : Mem} {s s1 : State} {v : Byte}

theorem readMem_datum (hd : readsDatum m s = true) (h : busRead (effAddr m s.cpu) (poll s) = .next (v, s1))
    (op : Byte → Cpu → Cpu) : readMem m op s = .next (endInstr (mapCpu (op v) s1)) := by
  rw [readMem, if_pos hd]
  exact lastRead_of_busRead h op

theorem writeMem_datum (ht : datumCycle m ≤ s.cpu.t) (value : Cpu → Byte)
    (h : busWrite (effAddr m s.cpu) (value s.cpu) (poll s) = .next s1) : writeMem m value s = .next (endInstr s1) := by
  rw [writeMem, if_pos ht]
  exact writeCycle_of_busWrite h _

theorem implied_of_busRead (h : busRead s.cpu.pc (poll s) = .next (v, s1)) (op : Cpu → Cpu) :
    implied op s = .next (endInstr (mapCpu op s1)) := lastRead_of_busRead h _

end LastCycle

/-- Settles O22: the read of a datum ends with its load; an immediate is its own datum. -/
theorem loadsAnswer : Obligations.LoadsAnswer := by
  refine ⟨fun m s s1 v hd h => ?_, fun v s => ⟨rfl, rfl, rfl⟩⟩
  have hread (op : Byte → Cpu → Cpu) := readMem_datum hd h op
  exact ⟨hread loadA, hread loadX, hread loadY, hread fun v c => setNZ v { c with a := v, x := v }⟩

/-- Settles O23: each store is the template's write of its own value. -/
theorem storesAnswer : Obligations.StoresAnswer := fun _ _ _ ht =>
  ⟨writeMem_datum ht fun c => c.a, writeMem_datum ht fun c => c.x, writeMem_datum ht fun c => c.y,
    writeMem_datum ht fun c => c.a &&& c.x⟩

/-- Settles O24: an implied instruction is its one operation after the dummy read, and a NOP operates as the identity. -/
theorem impliedAnswer : Obligations.ImpliedAnswer := by
  refine ⟨fun s s1 v h => ?_, fun op v s => rfl, fun op m s s1 v hd h => readMem_datum hd h _⟩
  have hnop (op : Byte) : exec (.nop op .implied) s = .next (endInstr s1) := implied_of_busRead h id
  simp only [exec, execTax, execTay, execTxa, execTya, execTsx, execTxs, execInx, execIny, execDex, execDey, execClc,
    execSec, execCli, execSei, execCld, execSed, execClv, implied_of_busRead h, loadA, loadX, loadY, setNZ, true_and]
  exact hnop

end Sys2Proof.Machine
end

section
/-! ADC and SBC with their flags (R240 to R243), and the compares, the logic instructions and BIT (R244 to R246, R270 to
R273): the operation of each in the statement's terms, and the cycle that reads its datum. -/

namespace Sys2Proof.Machine

/-! ## The operations in numbers -/

section Operations

variable {v r : Byte} {c : Cpu}

/-- ADC in binary mode from the number its result is (R240). -/
theorem adcBinary_of_toNat (hr : r.toNat = (c.a.toNat + v.toNat + c.c.toNat) % 256) :
    adcBinary v c = { c with
      a := r, n := r.getLsbD 7, z := r == 0, c := decide (255 < c.a.toNat + v.toNat + c.c.toNat)
      v := (~~~(c.a ^^^ v) &&& (c.a ^^^ r)).getLsbD 7 } := by
  have hsum : BitVec.ofNat 8 (c.a.toNat + v.toNat + c.c.toNat) = r :=
    BitVec.eq_of_toNat_eq (by rw [BitVec.toNat_ofNat, hr])
  simp only [adcBinary, hsum, gt_iff_lt]

/-- SBC in binary mode from the number its result is (R242). -/
theorem sbcBinary_of_toNat (hr : r.toNat = (c.a.toNat + 255 + c.c.toNat - v.toNat) % 256) :
    sbcBinary v c = { c with
      a := r, n := r.getLsbD 7, z := r == 0, c := decide (v.toNat + 1 ≤ c.a.toNat + c.c.toNat)
      v := ((c.a ^^^ v) &&& (c.a ^^^ r)).getLsbD 7 } := by
  have hv := v.isLt
  have hdiff : BitVec.ofInt 8 ((c.a.toNat : Int) - v.toNat - (1 - c.c.toNat)) = r :=
    BitVec.eq_of_toNat_eq (by rw [BitVec.toNat_ofInt]; omega)
  have hborrow : (c.a.toNat : Int) - v.toNat - (1 - c.c.toNat) ≥ 0 ↔ v.toNat + 1 ≤ c.a.toNat + c.c.toNat := by omega
  simp only [sbcBinary, hdiff, hborrow]

/-- The complement of a byte (R242). -/
theorem xor_ones_eq_not (v : Byte) : v ^^^ 0xFF = ~~~v := BitVec.xor_allOnes

/-- To subtract is to add the complement (R242). -/
theorem sbcBinary_eq_adcBinary (v : Byte) (c : Cpu) : sbcBinary v c = adcBinary (v ^^^ 0xFF) c := by
  have hv := v.isLt
  have hcompl : (~~~v).toNat = 255 - v.toNat := BitVec.toNat_not
  have hsigns : ~~~(c.a ^^^ ~~~v) = c.a ^^^ v := by rw [BitVec.not_xor_right, BitVec.not_not]
  have hsum := BitVec.toNat_ofNat (w := 8) (c.a.toNat + (~~~v).toNat + c.c.toNat)
  have hcarry : 255 < c.a.toNat + (~~~v).toNat + c.c.toNat ↔ v.toNat + 1 ≤ c.a.toNat + c.c.toNat := by omega
  rw [xor_ones_eq_not, adcBinary_of_toNat hsum, sbcBinary_of_toNat (hsum.trans (by omega))]
  simp only [hsigns, hcarry]

/-- The low byte of a number is 0 where 256 divides the number. -/
theorem ofNat_beq_zero (n : Nat) : (BitVec.ofNat 8 n == 0) = decide (n % 256 = 0) := by
  rw [beq_eq_decide, decide_eq_decide, ← BitVec.toNat_inj, BitVec.toNat_ofNat]
  exact Iff.rfl

/-- ADC in decimal mode, its masks as digits (R241). -/
theorem adcDecimal_of_digits {lo t u : Nat}
    (hlo : lo = (let l := c.a.toNat % 16 + v.toNat % 16 + c.c.toNat; if 10 ≤ l then (l + 6) % 16 + 16 else l))
    (ht : t = c.a.toNat / 16 * 16 + v.toNat / 16 * 16 + lo) (hu : u = if 0xA0 ≤ t then t + 0x60 else t) :
    adcDecimal v c = { c with
      a := BitVec.ofNat 8 u, n := decide (t / 128 % 2 = 1), c := decide (0x100 ≤ u)
      z := decide ((c.a.toNat + v.toNat + c.c.toNat) % 256 = 0)
      v := (~~~(c.a ^^^ v) &&& (c.a ^^^ BitVec.ofNat 8 t)).getLsbD 7 } := by
  have hnibble (n : Nat) : n &&& 0x0F = n % 16 := Nat.and_two_pow_sub_one_eq_mod _ 4
  have hbit : t.testBit 7 = decide (t / 128 % 2 = 1) := Nat.testBit_eq_decide_div_mod_eq
  simp only [adcDecimal, hnibble, byte_and_high, ofNat_beq_zero, ge_iff_le, ← hlo, ← ht, ← hu, hbit]

/-- SBC in decimal mode, its masks as digits (R243). -/
theorem sbcDecimalResult_of_digits {a : Byte} {carry : Bool} {lo t : Int}
    (hlo : lo = (let l : Int := (a.toNat % 16 : Nat) - (v.toNat % 16 : Nat) + carry.toNat - 1
                 if l < 0 then (l - 6) % 16 - 16 else l))
    (ht : t = (a.toNat / 16 * 16 : Nat) - (v.toNat / 16 * 16 : Nat) + lo) :
    sbcDecimalResult a v carry = BitVec.ofInt 8 (if t < 0 then t - 0x60 else t) := by
  simp only [sbcDecimalResult, byte_and_low, byte_and_high, ← hlo, ← ht]

theorem adcOp_binary (hd : c.d = false) : adcOp v c = adcBinary v c := if_neg (by simp [hd])
theorem adcOp_decimal (hd : c.d = true) : adcOp v c = adcDecimal v c := if_pos hd
theorem sbcOp_binary (hd : c.d = false) : sbcOp v c = sbcBinary v c := if_neg (by simp [hd])

/-- In decimal mode SBC differs from the binary one in A alone (R243). -/
theorem sbcOp_decimal (hd : c.d = true) :
    sbcOp v c = { sbcOp v { c with d := false } with d := true, a := sbcDecimalResult c.a v c.c } := by
  rw [sbcOp_binary (c := { c with d := false }) rfl, sbcOp, if_pos hd]
  simp only [sbcBinary, hd]

end Operations

/-! ## The obligations: the cycle that reads the datum (`readMem_datum`), and its operation -/

/-- Settles O26: the operation read off in each mode. -/
theorem adcAnswer : Obligations.AdcAnswer :=
  ⟨fun _ _ _ _ hread h => readMem_datum hread h adcOp, fun _ _ => rfl,
    fun _ _ _ hd hr => (adcOp_binary hd).trans (adcBinary_of_toNat hr),
    fun _ _ _ _ _ hd hlo ht hu => (adcOp_decimal hd).trans (adcDecimal_of_digits hlo ht hu)⟩

/-- Settles O27: the same of the difference, and the complement in binary mode. -/
theorem sbcAnswer : Obligations.SbcAnswer := by
  refine ⟨fun _ _ _ _ hread h => readMem_datum hread h sbcOp, fun _ _ => ⟨rfl, rfl⟩,
    fun v r c hd hr => ?_, fun v c hd => ?_, fun v c lo t hd hlo ht => ?_⟩
  · rw [sbcOp_binary hd, sbcBinary_of_toNat hr]
  · rw [sbcOp_binary hd, adcOp_binary hd, sbcBinary_eq_adcBinary]
  · rw [sbcOp_decimal hd, sbcDecimalResult_of_digits hlo ht]

/-- Settles O29: each is one operation on its datum; an immediate is its own datum. -/
theorem compareLogicAnswer : Obligations.CompareLogicAnswer := by
  refine ⟨fun m s s1 v hd h => ?_, fun v s => ⟨rfl, rfl, rfl, rfl, rfl, rfl⟩⟩
  have hread (op : Byte → Cpu → Cpu) := readMem_datum hd h op
  exact ⟨hread fun m c => compareOp c.a m c, hread fun m c => compareOp c.x m c, hread fun m c => compareOp c.y m c,
    hread fun m c => loadA (c.a &&& m) c, hread fun m c => loadA (c.a ||| m) c, hread fun m c => loadA (c.a ^^^ m) c,
    hread bitOp⟩

end Sys2Proof.Machine
end

section
/-! The immediate-only combinations (R329 to R332, R334, R335) and the instructions of the high-byte rule (R337 to R341,
R343): the two ARR modes in the statement's terms, and the write cycle of `unstableStore`. -/

namespace Sys2Proof.Machine

/-! ## ARR in its two modes (R332) -/

section Arr

variable {v t r : Byte} {c : Cpu}

theorem arrOp_binary (hd : c.d = false) : arrOp v c = arrBinary v c := if_neg (by simp [hd])
theorem arrOp_decimal (hd : c.d = true) : arrOp v c = arrDecimal v c := if_pos hd

/-- The rotate of R332 is ROR's (R277). -/
theorem rorOp_fst {carry : Bool} (hr : r = BitVec.ofBool carry ++ t.extractLsb' 1 7) : (rorOp t carry).1 = r := by
  rw [rorOp_eq, hr]

theorem arrBinary_of_rotated (ht : t = c.a &&& v) (hr : r = BitVec.ofBool c.c ++ t.extractLsb' 1 7) :
    arrBinary v c = { c with
      a := r, n := r.getLsbD 7, z := r == 0, c := r.getLsbD 6, v := r.getLsbD 6 != r.getLsbD 5 } := by
  simp only [arrBinary, ← ht, rorOp_fst hr]

/-- The decimal fix-up, its two corrections `q` and `w` named in turn. -/
theorem arrDecimal_of_rotated (ht : t = c.a &&& v) (hr : r = BitVec.ofBool c.c ++ t.extractLsb' 1 7) {q w : Byte}
    (hq : q = if 5 < (t &&& 0x0F).toNat + (t &&& 0x01).toNat then (r &&& 0xF0) ||| ((r + 6) &&& 0x0F) else r)
    (hw : w = if 0x50 < (t &&& 0xF0).toNat + (t &&& 0x10).toNat then (q &&& 0x0F) ||| ((q + 0x60) &&& 0xF0) else q) :
    arrDecimal v c = { c with
      a := w, n := c.c, z := r == 0, v := t.getLsbD 6 != r.getLsbD 6
      c := decide (0x50 < (t &&& 0xF0).toNat + (t &&& 0x10).toNat) } := by
  simp only [arrDecimal, ← ht, rorOp_fst hr, gt_iff_lt, decide_eq_true_eq, ← hq, ← hw, BitVec.getLsbD_xor]

end Arr

/-- Settles O40: each is its one operation on the fetched byte; ARR in the mode its D selects, and the constant of LXA and
ANE is the draw the state is at. -/
theorem immediateUndocumented : Obligations.ImmediateUndocumented := by
  refine fun v s => ⟨fun op => rfl, rfl, fun t r ht hr => ⟨fun hd => ?binary, fun hd q w hq hw => ?decimal⟩, rfl,
    fun k hk => hk ▸ ⟨rfl, rfl⟩⟩
  case binary =>
    have harr := (arrOp_binary hd).trans (arrBinary_of_rotated ht hr)
    simp only [exec, execArr, immediate, mapCpu, harr]
  case decimal =>
    have harr := (arrOp_decimal hd).trans (arrDecimal_of_rotated ht hr hq hw)
    simp only [exec, execArr, immediate, mapCpu, harr]

/-! ## The high-byte rule (R343) -/

/-- The write cycle of SHA, SHX, SHY and TAS, its value and its address in R343's terms. -/
theorem unstableStore_datum {m : Mem} {s s1 : State} {r v : Byte} {e : Word} (ht : datumCycle m ≤ s.cpu.t)
    (hv : v = r &&& (hi (baseOf m s.cpu) + 1))
    (he : e = if crosses m s.cpu then cat v (lo (effAddr m s.cpu)) else effAddr m s.cpu)
    (h : busWrite e v (poll s) = .next s1) {reg : Cpu → Byte} (hreg : r = reg s.cpu) (after : Cpu → Cpu) :
    unstableStore m reg after s = .next (endInstr (mapCpu after s1)) := by
  subst hreg hv he
  rw [unstableStore, if_pos ht]
  exact writeCycle_of_busWrite h _

/-- Settles O41: the stores are the template's write of their register, TAS's S being that register as the write leaves
it, since a write changes no register; LAS is a read. -/
theorem unstableAnswer : Obligations.UnstableAnswer := by
  refine ⟨fun m s s1 r v e ht hv he h => ?stores, fun m s s1 v hd h => readMem_datum hd h lasOp⟩
  have hstore (reg : Cpu → Byte) (hreg : r = reg s.cpu) := unstableStore_datum ht hv he h hreg
  refine ⟨fun hr => ⟨hstore (fun c => c.a &&& c.x) hr id, ?tas⟩, fun hr => hstore (fun c => c.x) hr id,
    fun hr => hstore (fun c => c.y) hr id⟩
  obtain ⟨hcpu, -⟩ := busWrite_frame h
  have hr1 : s1.cpu.a &&& s1.cpu.x = r := by rw [hcpu, hr, poll_cpu]
  refine (hstore (fun c => c.a &&& c.x) hr fun c => { c with sp := c.a &&& c.x }).trans ?_
  rw [mapCpu, hr1, mapCpu]

end Sys2Proof.Machine
end

section
/-! The VIC in the stages around the CPU's (R431 to R442, R450): what each stage changes, said once. -/

namespace Sys2Proof.Machine

/-! ## Sprites (R55, R440, R441) -/

theorem spriteAt_mapSprites (f : Nat → Sprite → Sprite) (p : Sprites) {n : Nat} (hn : n < 8) :
    spriteAt (mapSprites f p) n = f n (spriteAt p n) := by
  interval_cases n <;> rfl

theorem spritesOk_iff (s : State) :
    SpritesOk s ↔ 0 < s.params.spriteRounds ∧ 0 < s.params.spriteRoundsYExp
      ∧ ∀ n, n < 8 → SpriteOk s.params (spriteAt s.vic.sprites n) := by
  refine and_congr_right fun _ => and_congr_right fun _ => ⟨?_, fun h => ?_⟩
  · rintro ⟨h0, h1, h2, h3, h4, h5, h6, h7⟩ n hn
    interval_cases n <;> assumption
  · exact ⟨h 0 (by decide), h 1 (by decide), h 2 (by decide), h 3 (by decide), h 4 (by decide), h 5 (by decide),
      h 6 (by decide), h 7 (by decide)⟩

/-- Sprite `n` after the switch-on of stage (a) (R440). -/
def switchedOn (p : Params) (v : Vic) (n : Nat) : Sprite :=
  if v.cyc = p.spriteCheckCycle ∧ (spriteAt v.sprites n).dma = false ∧ (Cells.read v.cells 0x15).getLsbD n = true
      ∧ (Cells.read v.cells (2 * n + 1)).toNat = v.line.toNat % 256
  then ⟨true, if (Cells.read v.cells 0x17).getLsbD n then p.spriteRoundsYExp else p.spriteRounds⟩
  else spriteAt v.sprites n

/-- A sprite `x` with number `n` after the countdown of stage (a) (R441). -/
def countedDown (p : Params) (v : Vic) (n : Nat) (x : Sprite) : Sprite :=
  if x.dma = true ∧ winPlace p v n + 1 = p.spriteWinLen then ⟨decide (x.left - 1 ≠ 0), x.left - 1⟩ else x

theorem spriteSwitchOn_eq (p : Params) (v : Vic) :
    spriteSwitchOn p v = { v with sprites := (spriteSwitchOn p v).sprites } := by
  unfold spriteSwitchOn
  split <;> rfl

theorem spriteAt_spriteSwitchOn (p : Params) (v : Vic) {n : Nat} (hn : n < 8) :
    spriteAt (spriteSwitchOn p v).sprites n = switchedOn p v n := by
  have hline (b : Byte) : b = v.line.extractLsb' 0 8 ↔ b.toNat = v.line.toNat % 256 := by
    simp [← BitVec.toNat_inj]
  by_cases hcyc : v.cyc = p.spriteCheckCycle
  · simp only [spriteSwitchOn, if_pos hcyc, spriteAt_mapSprites _ _ hn]
    exact if_congr (by simp [hcyc, vicCell, hline, and_assoc]) rfl rfl
  · rw [spriteSwitchOn, if_neg hcyc, switchedOn, if_neg fun h => hcyc h.1]

/-- Stage (a) on a sprite: the switch-on, then the countdown. -/
theorem spriteAt_stageA (s : State) {n : Nat} (hn : n < 8) :
    spriteAt (stageA s).vic.sprites n = countedDown s.params s.vic n (switchedOn s.params s.vic n) := by
  have hplace : winPlace s.params (arbiterVic s) n = winPlace s.params s.vic n := by
    rw [arbiterVic, spriteSwitchOn_eq]
    rfl
  rw [stageA_vic, spriteCountdown, spriteAt_mapSprites _ _ hn, arbiterVic, spriteAt_spriteSwitchOn _ _ hn, ← arbiterVic,
    hplace]
  exact if_congr (by simp) (by simp [bne, beq_eq_decide]) rfl

theorem switchedOn_ok {p : Params} (hr : 0 < p.spriteRounds) (hy : 0 < p.spriteRoundsYExp) {v : Vic} {n : Nat}
    (h : SpriteOk p (spriteAt v.sprites n)) : SpriteOk p (switchedOn p v n) := by
  unfold switchedOn
  split_ifs
  · exact ⟨(decide_eq_true hy.ne').symm, le_max_right _ _⟩
  · exact ⟨(decide_eq_true hr.ne').symm, le_max_left _ _⟩
  · exact h

theorem countedDown_ok {p : Params} (v : Vic) (n : Nat) {x : Sprite} (h : SpriteOk p x) :
    SpriteOk p (countedDown p v n x) := by
  unfold countedDown
  split
  · exact ⟨rfl, (Nat.sub_le _ _).trans h.2⟩
  · exact h

/-! ## Stage (c) (R433, R437, R438) -/

theorem denUpdate_eq (p : Params) (v : Vic) :
    denUpdate p v
      = { v with denSeen := v.denSeen || (decide (v.line.toNat = p.badFirstLine) && vicDen v) } := by
  unfold denUpdate
  split
  next h => simp [h]
  next h =>
    have hden : (decide (v.line.toNat = p.badFirstLine) && vicDen v) = false := by simpa using h
    simp [hden]

theorem lightPen_ignored {pen : Option (Byte × Byte)} {v : Vic} (h : pen = none ∨ v.lpSeen = true) :
    lightPen pen v = v := by
  cases pen with
  | none => rfl
  | some xy => exact if_pos (h.resolve_left (by simp))

theorem lightPen_taken (x y : Byte) {v : Vic} (h : v.lpSeen = false) :
    lightPen (some (x, y)) v = { v with lpX := x, lpY := y, irqLatch := v.irqLatch ||| 8, lpSeen := true } :=
  if_neg (by simp [h])

/-- A pen that is taken sets ILP, and with it the latched position. -/
theorem lightPen_eq (pen : Option (Byte × Byte)) (v : Vic) :
    lightPen pen v = { v with
      lpX := (lightPen pen v).lpX, lpY := (lightPen pen v).lpY, lpSeen := (lightPen pen v).lpSeen
      irqLatch := (lightPen pen v).irqLatch } := by
  unfold lightPen
  split
  · rfl
  · split <;> rfl

theorem lightPen_irqLatch (pen : Option (Byte × Byte)) (v : Vic) {n : Nat} (hn : n < 3) :
    (lightPen pen v).irqLatch.getLsbD n = v.irqLatch.getLsbD n := by
  have hbit : (8 : BitVec 4).getLsbD n = false := by interval_cases n <;> rfl
  unfold lightPen
  split
  · rfl
  · split
    · rfl
    · rw [BitVec.getLsbD_or, hbit, Bool.or_false]

/-- The VIC as the light pen of stage (c) finds it: stage (a) on the sprites, the raster compare, DEN and the
collisions. -/
def beforePen (inp : CycleIn) (s : State) : Vic :=
  { s.vic with
    sprites := (stageA s).vic.sprites
    irqLatch := s.vic.irqLatch ||| (if s.vic.line = s.vic.cmp ∧ s.vic.eqPrev = false then 1 else 0)
      ||| (if s.vic.collMM = 0 ∧ inp.collideMM ≠ 0 then 4 else 0)
      ||| (if s.vic.collMD = 0 ∧ inp.collideMD ≠ 0 then 2 else 0)
    eqPrev := s.vic.line == s.vic.cmp
    denSeen := s.vic.denSeen || (decide (s.vic.line.toNat = s.params.badFirstLine) && vicDen s.vic)
    collMM := s.vic.collMM ||| inp.collideMM
    collMD := s.vic.collMD ||| inp.collideMD }

theorem beforeCpu_vic (inp : CycleIn) (s : State) : (beforeCpu inp s).vic = lightPen inp.pen (beforePen inp s) := by
  have hor (c : Prop) [Decidable c] (x m : BitVec 4) : (if c then x ||| m else x) = x ||| (if c then m else 0) := by
    split <;> simp
  have hA : (stageA s).vic = { s.vic with sprites := (stageA s).vic.sprites } := by
    rw [stageA_vic, spriteCountdown, arbiterVic, spriteSwitchOn_eq]
  change (stageC inp (stageB inp (stageA s))).vic = _
  rw [stageC_vic, stageB_vic, hA, denUpdate_eq]
  simp [collideMD, collideMM, rasterCompare, beforePen, hor, vicDen, vicCell]

end Sys2Proof.Machine
end

section
/-! What a master cycle keeps of the devices (R431, R440, R441, R469): the stages around the CPU's, and the accesses of its
cycle. -/

namespace Sys2Proof.Machine

/-! ## The CPU's cycle -/

/-- What every change of the CPU, every draw and every access keep, a CPU cycle keeps. -/
theorem cpuCycle_induction {P : State → Prop} (hcpu : ∀ f s, P s → P (mapCpu f s)) (hdraw : ∀ s, P s → P (drawn s))
    (hread : ∀ a v s t, busRead a s = .next (v, t) → P s → P t)
    (hwrite : ∀ a v s t, busWrite a v s = .next t → P s → P t) {s t : State} (h : cpuCycle s = .next t) (hs : P s) :
    P t := by
  have haccess {s t : State} (h : OneAccess s t) (hs : P s) : P t := by
    obtain ⟨f, g, s1, ha, rfl⟩ := h
    have hf : P (mapCpu f s) := hcpu f s hs
    refine hcpu g s1 ?_
    cases ha with
    | none => exact hf
    | draw => exact hdraw _ hf
    | read h => exact hread _ _ _ _ h hf
    | write h => exact hwrite _ _ _ _ h hf
  obtain h1 | ⟨f, a, v, u, hr, h1⟩ := cpuCycle_accesses h
  · exact haccess h1 hs
  · exact haccess h1 (hread _ _ _ _ hr (hcpu f s hs))

/-- The part of the VIC that no register names: the position and the sprites' DMA (R430, R431, R441). -/
def SameRaster (v w : Vic) : Prop := w.line = v.line ∧ w.cyc = v.cyc ∧ w.sprites = v.sprites

theorem SameRaster.trans {u v w : Vic} (h : SameRaster u v) (h' : SameRaster v w) : SameRaster u w := by
  obtain ⟨hline, hcyc, hsprites⟩ := h
  obtain ⟨hline', hcyc', hsprites'⟩ := h'
  exact ⟨hline'.trans hline, hcyc'.trans hcyc, hsprites'.trans hsprites⟩

theorem vicWrite_sameRaster (v : Vic) (off : Nat) (x : Byte) : SameRaster v (vicWrite v off x) := by
  unfold vicWrite
  split_ifs <;> exact ⟨rfl, rfl, rfl⟩

theorem busRead_sameRaster {a : Word} {v : Byte} {s t : State} (h : busRead a s = .next (v, t)) :
    SameRaster s.vic t.vic := by
  rw [(busRead_devices h).1]
  exact ⟨rfl, rfl, rfl⟩

theorem busWrite_sameRaster {a : Word} {v : Byte} {s t : State} (h : busWrite a v s = .next t) :
    SameRaster s.vic t.vic := by
  obtain ⟨⟨r, k⟩, -, rfl⟩ := busWrite_eq_next.1 h
  cases r
  case vic => exact vicWrite_sameRaster _ _ _
  case port => simp only [targetWrite]; split <;> exact ⟨rfl, rfl, rfl⟩
  all_goals exact ⟨rfl, rfl, rfl⟩

theorem cpuCycle_sameRaster {s t : State} (h : cpuCycle s = .next t) : SameRaster s.vic t.vic :=
  cpuCycle_induction (P := fun u => SameRaster s.vic u.vic) (fun _ _ h => h) (fun _ h => h)
    (fun _ _ _ _ hread hu => hu.trans (busRead_sameRaster hread))
    (fun _ _ _ _ hwrite hu => hu.trans (busWrite_sameRaster hwrite)) h ⟨rfl, rfl, rfl⟩

/-! ## The control registers (R469) -/

/-- A write of a register leaves the LOAD bits at 0. -/
theorem ciaWrite_controlOk {c : Cia} (h : ControlOk c) {off : Nat} (hoff : off < 16) (v : Byte) :
    ControlOk (ciaWrite c off v) := by
  have hload : (v &&& 0xEF).getLsbD 4 = false := by simp
  obtain rfl | rfl | hother : off = 14 ∨ off = 15 ∨ off < 14 := by omega
  · exact ⟨hload, h.2⟩
  · exact ⟨h.1, hload⟩
  · interval_cases off <;> exact h

/-- So does the stop of a one-shot timer. -/
theorem timerStep_load {counter latch : Word} {cr : Byte} (h : cr.getLsbD 4 = false) (counts : Bool) :
    (timerStep counter latch cr counts).cr.getLsbD 4 = false := by
  unfold timerStep
  split_ifs <;> simpa using h

theorem ciaStep_controlOk {c : Cia} (h : ControlOk c) (inp : CiaIn) : ControlOk (ciaStep inp c) :=
  ⟨timerStep_load h.1 _, timerStep_load h.2 _⟩

/-- Both CIAs have their LOAD bits at 0. -/
def ControlsOk (s : State) : Prop := ControlOk s.cia1 ∧ ControlOk s.cia2

theorem busRead_controlsOk {a : Word} {v : Byte} {s t : State} (h : busRead a s = .next (v, t)) (hs : ControlsOk s) :
    ControlsOk t := by
  obtain ⟨-, hcia1, hcia2⟩ := busRead_devices h
  rw [ControlsOk, hcia1, hcia2]
  exact hs

theorem busWrite_controlsOk {a : Word} {v : Byte} {s t : State} (h : busWrite a v s = .next t) (hs : ControlsOk s) :
    ControlsOk t := by
  obtain ⟨⟨r, k⟩, hreg, rfl⟩ := busWrite_eq_next.1 h
  have hk := regionOf_offset hreg
  cases r
  case cia1 => exact ⟨ciaWrite_controlOk hs.1 hk v, hs.2⟩
  case cia2 => exact ⟨hs.1, ciaWrite_controlOk hs.2 hk v⟩
  case port => simp only [targetWrite]; split <;> exact hs
  all_goals exact hs

theorem cpuCycle_controlsOk {s t : State} (h : cpuCycle s = .next t) (hs : ControlsOk s) : ControlsOk t :=
  cpuCycle_induction (P := ControlsOk) (fun _ _ h => h) (fun _ h => h) (fun _ _ _ _ => busRead_controlsOk)
    (fun _ _ _ _ => busWrite_controlsOk) h hs

/-! ## The raster position (R431) -/

/-- The position is in the frame, and the sprites' DMA in step with their rounds. -/
def RasterOk (s : State) : Prop := PositionOk s ∧ SpritesOk s

/-- It is a matter of the parameters and of what no register names. -/
theorem RasterOk.of_same {s t : State} (hs : RasterOk s) (hparams : t.params = s.params)
    (hraster : SameRaster s.vic t.vic) : RasterOk t := by
  obtain ⟨hline, hcyc, hsprites⟩ := hraster
  unfold RasterOk PositionOk SpritesOk
  rw [hparams, hline, hcyc, hsprites]
  exact hs

/-- A reset starts at (0, 0) with every sprite off (R449). -/
theorem supplied_rasterOk {s : State} (hs : RasterOk s) : RasterOk (supplied s) := by
  obtain h | h := supplied_cases s <;> rw [h]
  · obtain ⟨⟨hlines, hfit, hcpl, -⟩, hr, hy, -⟩ := hs
    refine ⟨⟨hlines, hfit, hcpl, hlines, hcpl⟩, (spritesOk_iff _).2 ⟨hr, hy, fun n hn => ?_⟩⟩
    interval_cases n <;> exact ⟨rfl, Nat.zero_le _⟩
  · exact hs

/-- The stages before the CPU's leave the position alone. -/
theorem beforeCpu_position (inp : CycleIn) (s : State) :
    (beforeCpu inp s).vic.line = s.vic.line ∧ (beforeCpu inp s).vic.cyc = s.vic.cyc := by
  rw [beforeCpu_vic, lightPen_eq]
  exact ⟨rfl, rfl⟩

theorem beforeCpu_sprites (inp : CycleIn) (s : State) :
    (beforeCpu inp s).vic.sprites = (stageA s).vic.sprites := by
  rw [beforeCpu_vic, lightPen_eq]
  rfl

theorem beforeCpu_rasterOk {s : State} (hs : RasterOk s) (inp : CycleIn) : RasterOk (beforeCpu inp s) := by
  obtain ⟨hpos, hsprites⟩ := hs
  obtain ⟨hr, hy, hsprite⟩ := (spritesOk_iff s).1 hsprites
  obtain ⟨hline, hcyc⟩ := beforeCpu_position inp s
  refine ⟨?_, (spritesOk_iff _).2 ⟨hr, hy, fun n hn => ?_⟩⟩
  · rw [PositionOk, hline, hcyc]
    exact hpos
  · rw [beforeCpu_sprites, spriteAt_stageA s hn]
    exact countedDown_ok _ n (switchedOn_ok hr hy (hsprite n hn))

/-- Stage (f) at a position of the frame: the next cycle, the next line, or the first of the next frame. -/
theorem vicAdvance_cases {p : Params} {v : Vic} (hcyc : v.cyc < p.cpl) (hline : v.line.toNat < p.lines) :
    (v.cyc + 1 < p.cpl ∧ vicAdvance p v = { v with cyc := v.cyc + 1 } ∧ frameEnds p v = false)
      ∨ (v.cyc + 1 = p.cpl ∧ v.line.toNat + 1 < p.lines ∧ vicAdvance p v = { v with cyc := 0, line := v.line + 1 }
        ∧ frameEnds p v = false)
      ∨ (v.cyc + 1 = p.cpl ∧ v.line.toNat + 1 = p.lines ∧ frameEnds p v = true
        ∧ vicAdvance p v = { v with cyc := 0, line := 0, denSeen := false, lpSeen := false }) := by
  by_cases hc : p.cpl ≤ v.cyc + 1
  · by_cases hl : p.lines ≤ v.line.toNat + 1
    · exact .inr (.inr ⟨by omega, by omega, by simp [frameEnds, hc, hl], by simp [vicAdvance, hc, hl]⟩)
    · exact .inr (.inl ⟨by omega, by omega, by simp [vicAdvance, hc, hl], by simp [frameEnds, hl]⟩)
  · exact .inl ⟨by omega, by simp [vicAdvance, hc], by simp [frameEnds, hc]⟩

/-- Within a frame the line's 9 bits do not overflow. -/
theorem line_succ_toNat {p : Params} (hfit : p.lines ≤ 512) {v : Vic} (h : v.line.toNat + 1 < p.lines) :
    (v.line + 1).toNat = v.line.toNat + 1 := by
  bv_omega

theorem afterCpu_rasterOk {s : State} (hs : RasterOk s) : RasterOk (afterCpu s) := by
  obtain ⟨⟨hlines, hfit, hcpl, hline, hcyc⟩, hsprites⟩ := hs
  have hvic : (afterCpu s).vic = vicAdvance s.params s.vic := rfl
  unfold RasterOk PositionOk SpritesOk
  rw [afterCpu_params, hvic]
  obtain ⟨hc, h, -⟩ | ⟨-, hl, h, -⟩ | ⟨-, -, -, h⟩ := vicAdvance_cases hcyc hline <;> rw [h]
  · exact ⟨⟨hlines, hfit, hcpl, hline, hc⟩, hsprites⟩
  · exact ⟨⟨hlines, hfit, hcpl, by rw [line_succ_toNat hfit hl]; exact hl, hcpl⟩, hsprites⟩
  · exact ⟨⟨hlines, hfit, hcpl, hlines, hcpl⟩, hsprites⟩

theorem supplied_controlsOk {s : State} (hs : ControlsOk s) : ControlsOk (supplied s) := by
  obtain h | h := supplied_cases s <;> rw [h]
  · have hreset : ControlOk ciaReset := by decide
    exact ⟨hreset, hreset⟩
  · exact hs

/-- Settles O11: a reset, the stages before the CPU's, its cycle and the stages after it each keep the position and the
sprites, and the LOAD bits. -/
theorem stepKeepsDevices : Obligations.StepKeepsDevices := by
  rintro s t ⟨hpos, hcia1, hcia2, hsprites⟩ h
  obtain ⟨u, hstage, rfl⟩ := step_eq_next h
  have hcontrols : ControlsOk (beforeCpu (cycleIn s) (supplied s)) := by
    obtain ⟨h1, h2⟩ := supplied_controlsOk (s := s) ⟨hcia1, hcia2⟩
    exact ⟨ciaStep_controlOk h1 _, ciaStep_controlOk h2 _⟩
  have hraster : RasterOk (beforeCpu (cycleIn s) (supplied s)) :=
    beforeCpu_rasterOk (supplied_rasterOk ⟨hpos, hsprites⟩) _
  have hu : ControlsOk u ∧ RasterOk u := by
    obtain ⟨rfl, -⟩ | ⟨hcycle, -⟩ := stageD_cases hstage
    · exact ⟨hcontrols, hraster⟩
    · obtain ⟨-, -, -, hparams, -⟩ := cpuCycle_fixed hcycle
      exact ⟨cpuCycle_controlsOk hcycle hcontrols, hraster.of_same hparams (cpuCycle_sameRaster hcycle)⟩
  obtain ⟨hpos', hsprites'⟩ := afterCpu_rasterOk hu.2
  exact ⟨hpos', hu.1.1, hu.1.2, hsprites'⟩

/-- Up to stage (f) a step that no reset comes before leaves the position and the frame events alone. -/
theorem step_position {s t : State} (hres : NoReset s) (h : step s = .next t) :
    ∃ u, t = afterCpu u ∧ u.params = s.params ∧ u.vic.line = s.vic.line ∧ u.vic.cyc = s.vic.cyc ∧ u.frames = s.frames
      ∧ u.mcycle = s.mcycle := by
  obtain ⟨u, hstage, ht⟩ := step_eq_next h
  rw [supplied_noReset hres] at hstage
  obtain ⟨hline, hcyc⟩ := beforeCpu_position (cycleIn s)
    { s with inputs := s.inputs.tail, host := (cycleIn s).held.getD s.host }
  obtain ⟨rfl, -⟩ | ⟨hcycle, -⟩ := stageD_cases hstage
  · exact ⟨_, ht, rfl, hline, hcyc, rfl, rfl⟩
  · obtain ⟨hline', hcyc', -⟩ := cpuCycle_sameRaster hcycle
    obtain ⟨-, -, -, hparams, -, -, hmcycle, -, hframes⟩ := cpuCycle_fixed hcycle
    exact ⟨u, ht, hparams, hline'.trans hline, hcyc'.trans hcyc, hframes, hmcycle⟩

/-- Stage (f) from a position of the frame, case by case. -/
theorem afterCpu_advance {u : State} (hfit : u.params.lines ≤ 512) (hline : u.vic.line.toNat < u.params.lines)
    (hcyc : u.vic.cyc < u.params.cpl) :
    (u.vic.cyc + 1 < u.params.cpl → (afterCpu u).vic.line = u.vic.line ∧ (afterCpu u).vic.cyc = u.vic.cyc + 1
        ∧ (afterCpu u).frames = u.frames)
      ∧ (u.vic.cyc + 1 = u.params.cpl → u.vic.line.toNat + 1 < u.params.lines →
        (afterCpu u).vic.line.toNat = u.vic.line.toNat + 1 ∧ (afterCpu u).vic.cyc = 0
          ∧ (afterCpu u).frames = u.frames)
      ∧ (u.vic.cyc + 1 = u.params.cpl → u.vic.line.toNat + 1 = u.params.lines →
        (afterCpu u).vic.line = 0 ∧ (afterCpu u).vic.cyc = 0 ∧ (afterCpu u).vic.denSeen = false
          ∧ (afterCpu u).vic.lpSeen = false ∧ (afterCpu u).frames = u.frames ++ [u.mcycle]) := by
  have hvic : (afterCpu u).vic = vicAdvance u.params u.vic := rfl
  have hevents : (afterCpu u).frames = if frameEnds u.params u.vic then u.frames ++ [u.mcycle] else u.frames := rfl
  rw [hvic, hevents]
  obtain ⟨hc, hadv, hends⟩ | ⟨hc, hl, hadv, hends⟩ | ⟨hc, hl, hends, hadv⟩ := vicAdvance_cases hcyc hline <;>
    rw [hadv, hends]
  · exact ⟨fun _ => ⟨rfl, rfl, rfl⟩, fun h => by omega, fun h => by omega⟩
  · exact ⟨fun h => by omega, fun _ _ => ⟨line_succ_toNat hfit hl, rfl, rfl⟩, fun _ h => by omega⟩
  · exact ⟨fun h => by omega, fun _ h => by omega, fun _ _ => ⟨rfl, rfl, rfl, rfl, rfl⟩⟩

/-- Settles O53: stage (f) starts from the position of `s`, inside a line, at its end or at the frame's. -/
theorem rasterAdvance : Obligations.RasterAdvance := by
  rintro s t hres ⟨-, hfit, -, hline, hcyc⟩ h
  obtain ⟨u, rfl, hparams, hline', hcyc', hframes, hmcycle⟩ := step_position hres h
  have hadvance := afterCpu_advance (u := u) (hparams ▸ hfit) (by rwa [hparams, hline']) (by rwa [hparams, hcyc'])
  rwa [hparams, hline', hcyc', hframes, hmcycle] at hadvance

end Sys2Proof.Machine
end

section
/-! What the stages before the CPU's do to the VIC (R433, R437, R438, R440, R441). -/

namespace Sys2Proof.Machine

/-- The four interrupt bits before the light pen: IRST, IMBC, IMMC raised, ILP as it was. -/
theorem beforePen_irqLatch (inp : CycleIn) (s : State) :
    (beforePen inp s).irqLatch.getLsbD 0 = (s.vic.irqLatch.getLsbD 0 || (s.vic.line == s.vic.cmp && !s.vic.eqPrev))
      ∧ (beforePen inp s).irqLatch.getLsbD 1
        = (s.vic.irqLatch.getLsbD 1 || decide (s.vic.collMD = 0 ∧ inp.collideMD ≠ 0))
      ∧ (beforePen inp s).irqLatch.getLsbD 2
        = (s.vic.irqLatch.getLsbD 2 || decide (s.vic.collMM = 0 ∧ inp.collideMM ≠ 0))
      ∧ (beforePen inp s).irqLatch.getLsbD 3 = s.vic.irqLatch.getLsbD 3 := by
  have hraised (b : Prop) [Decidable b] (m : BitVec 4) (n : Nat) :
      (if b then m else 0).getLsbD n = (decide b && m.getLsbD n) := by
    split <;> simp [*]
  have heq : (s.vic.line == s.vic.cmp && !s.vic.eqPrev) = decide (s.vic.line = s.vic.cmp ∧ s.vic.eqPrev = false) := by
    rw [Bool.decide_and, beq_eq_decide]
    simp
  have hbits (n : Nat) : (beforePen inp s).irqLatch.getLsbD n
      = (((s.vic.irqLatch.getLsbD n || (decide (s.vic.line = s.vic.cmp ∧ s.vic.eqPrev = false) && (1#4).getLsbD n))
        || (decide (s.vic.collMM = 0 ∧ inp.collideMM ≠ 0) && (4#4).getLsbD n))
        || (decide (s.vic.collMD = 0 ∧ inp.collideMD ≠ 0) && (2#4).getLsbD n)) := by
    simp only [beforePen, BitVec.getLsbD_or, hraised]
    rfl
  rw [hbits, hbits, hbits, hbits, heq]
  simp

/-- Settles O52: stage (a) on each sprite, stage (c) before the light pen, and the light pen, which touches ILP and its own
latches alone. -/
theorem vicStages : Obligations.VicStages := by
  rintro inp s t rfl
  obtain ⟨hirst, himbc, himmc, hilp⟩ := beforePen_irqLatch inp s
  have hbit {n : Nat} (hn : n < 3) := lightPen_irqLatch inp.pen (beforePen inp s) hn
  have hpen := lightPen_eq inp.pen (beforePen inp s)
  rw [beforeCpu_vic]
  refine ⟨⟨(hbit (by decide)).trans hirst, by rw [hpen]; rfl, fun ⟨_, _, _, hline, _⟩ hcmp => ?irst⟩,
    ⟨(hbit (by decide)).trans himbc, by rw [hpen]; rfl, (hbit (by decide)).trans himmc, by rw [hpen]; rfl⟩,
    fun x y hxy hseen => ?taken, fun hnone => ?ignored, by rw [hpen]; rfl, fun n on hn hon => ?sprite⟩
  case irst =>
    have hne : s.vic.line ≠ s.vic.cmp := fun h => by
      rw [h] at hline
      omega
    rw [hbit (by decide), hirst]
    simp [hne]
  case taken =>
    rw [hxy, lightPen_taken x y (v := beforePen inp s) hseen]
    exact ⟨rfl, rfl, by simp, rfl⟩
  case ignored =>
    rw [lightPen_ignored (v := beforePen inp s) hnone]
    exact ⟨rfl, rfl, rfl, hilp⟩
  case sprite =>
    subst hon
    rw [hpen]
    exact spriteAt_stageA s hn

end Sys2Proof.Machine
end

section
/-! The interrupt lines (R401, R403, R405, R409, R423, R424), the pending NMI (R403, R412), and the stolen cycle (R443). -/

namespace Sys2Proof.Machine

/-! ## The pending NMI -/

/-- Only BRK is at $00 (R189). -/
theorem eq_zero_of_brk : ∀ op : Byte, (rowOf op).1 = .brk → op = 0x00 := by decide

/-- It fetches no operand byte: its T2 is one of `exec`'s (R180). -/
theorem fetchAt_brk (t : Nat) : fetchAt 0x00 t = none := by
  have hlen : lengthOf 0x00 = 1 := rfl
  rw [fetchAt, hlen]
  simp

/-- A read changes the pending NMI no more than what follows it does. -/
theorem readCycle_nmiPending {a : Word} {k : Byte → State → State} {s t : State}
    (h : readCycle a k s = .next t) (hk : ∀ v s1, (k v s1).cpu.nmiPending = s1.cpu.nmiPending) :
    t.cpu.nmiPending = s.cpu.nmiPending := by
  obtain ⟨v, s1, hread, rfl⟩ := readCycle_eq_next.1 h
  rw [hk, (busRead_frame hread).1]

/-- Nor does a push. -/
theorem pushCycle_nmiPending {v : Byte} {k : State → State} {s t : State}
    (h : pushCycle v k s = .next t) (hk : ∀ s1, (k s1).cpu.nmiPending = s1.cpu.nmiPending) :
    t.cpu.nmiPending = s.cpu.nmiPending := by
  obtain ⟨s1, hwrite, rfl⟩ := pushCycle_eq_next.1 h
  rw [hk, mapCpu_cpu, (busWrite_frame hwrite).1]
  rfl

/-- The entry changes the pending NMI in T6 alone, where it reads `VEC_NMI` (R180, R409). -/
theorem entryCycle_nmiPending {b : Bool} {vec : State → Word} {s t : State} (h : entryCycle b vec s = .next t)
    (hne : t.cpu.nmiPending ≠ s.cpu.nmiPending) : s.cpu.t = 6 ∧ s.cpu.ea = s.params.vecNmi := by
  unfold entryCycle at h
  split at h
  · exact absurd (pushCycle_nmiPending h fun _ => rfl) hne
  · exact absurd (pushCycle_nmiPending h fun _ => rfl) hne
  · exact absurd (pushCycle_nmiPending h fun _ => rfl) hne
  next ht =>
    refine ⟨ht, ?_⟩
    by_contra hea
    obtain ⟨v, s1, hread, rfl⟩ := readCycle_eq_next.1 h
    exact hne (by simp [vectorLow, (busRead_frame hread).1, hea])
  · exact absurd (readCycle_nmiPending h fun _ _ => rfl) hne

theorem interruptCycle_nmiPending {vec : State → Word} {s t : State} (h : interruptCycle vec s = .next t)
    (hne : t.cpu.nmiPending ≠ s.cpu.nmiPending) : s.cpu.t = 6 ∧ s.cpu.ea = s.params.vecNmi := by
  unfold interruptCycle at h
  split at h
  · exact absurd (readCycle_nmiPending h fun _ _ => rfl) hne
  · exact entryCycle_nmiPending h hne

theorem execBrk_nmiPending {s t : State} (h : execBrk s = .next t) (hne : t.cpu.nmiPending ≠ s.cpu.nmiPending) :
    s.cpu.t = 6 ∧ s.cpu.ea = s.params.vecNmi := by
  unfold execBrk at h
  split at h
  · exact absurd (readCycle_nmiPending h fun _ _ => rfl) hne
  · exact entryCycle_nmiPending h hne

/-- A CPU cycle changes the pending NMI in T6 of an IRQ or NMI sequence or of BRK alone, where that reads `VEC_NMI`. -/
theorem cpuCycle_nmiPending {s t : State} (h : cpuCycle s = .next t) (hne : t.cpu.nmiPending ≠ s.cpu.nmiPending) :
    s.cpu.t = 6 ∧ s.cpu.ea = s.params.vecNmi
      ∧ (s.cpu.seq = .irqSeq ∨ s.cpu.seq = .nmiSeq ∨ s.cpu.seq = .instr 0x00) := by
  obtain ⟨-, -, -, -, -, -, -, -, -, -, -, hkeep, -⟩ := cpuCycle_keeps h
  obtain ⟨op, hq, hw⟩ | ⟨hq, -⟩ | ⟨-, hw⟩ := mem_seqWrites (by decide) (not_imp_comm.1 hkeep hne)
  · obtain rfl : op = 0x00 := eq_zero_of_brk op (rowOf_forall (P := fun r => Piece.nmiPending ∈ (rowProfile r).writes →
      r.1 = .brk) (by decide) op hw)
    have hbrk : execBrk s = .next t := by
      rwa [cpuCycle_of_instr hq, instrCycle_of_no_fetch (fetchAt_brk _)] at h
    obtain ⟨ht, hea⟩ := execBrk_nmiPending hbrk hne
    exact ⟨ht, hea, .inr (.inr hq)⟩
  · have hint : ∃ vec, interruptCycle vec s = .next t := by
      obtain hq | hq := hq <;> exact ⟨_, by simpa only [cpuCycle, hq] using h⟩
    obtain ⟨vec, hint⟩ := hint
    obtain ⟨ht, hea⟩ := interruptCycle_nmiPending hint hne
    exact ⟨ht, hea, hq.imp_right .inl⟩
  · exact absurd hw (by decide)

/-- Settles O15: stage (e) clears nothing, so the CPU's cycle has. -/
theorem nmiPendingCleared : Obligations.NmiPendingCleared := by
  intro s t hres h hset hclear
  obtain ⟨u, hstage, rfl⟩ := step_eq_next h
  rw [supplied_noReset hres] at hstage
  have hu : u.cpu.nmiPending = false := (Bool.or_eq_false_iff.1 hclear).1
  obtain ⟨rfl, -⟩ | ⟨hcycle, -⟩ := stageD_cases hstage
  · exact absurd (hset.symm.trans hu) (by simp)
  · have hcleared := cpuCycle_nmiPending hcycle fun heq => by simp [hu, hset] at heq
    exact hcleared

/-! ## The boundary (R401, R405, R413) -/

/-- T1 of a sequence: a dummy read at PC. -/
theorem interruptCycle_beginSeq {q : Seq} {vec : State → Word} {s s1 : State} {v : Byte}
    (h : busRead s.cpu.pc s = .next (v, s1)) :
    interruptCycle vec (beginSeq q s) = .next (mapCpu (fun c => { c with seq := q, t := 2 }) s1) :=
  dummyRead_of_busRead (s := beginSeq q s) (busRead_mapCpu h _)

/-- Settles O35: the polls choose between three first cycles; after a sequence there is one. -/
theorem boundaryDecides : Obligations.BoundaryDecides := by
  intro s s1 v h
  refine ⟨fun hq hnmi => ?_, fun hq hnmi hirq => ?_, fun hq hjam => ?_⟩
  · simp only [cpuCycle, hq, hnmi, if_true]
    exact interruptCycle_beginSeq h
  · simp only [cpuCycle, hq, hnmi, hirq, if_true, Bool.false_eq_true, if_false]
    exact interruptCycle_beginSeq h
  · have hfetch : cpuCycle s = opcodeCycle s := by
      obtain ⟨hq, hnmi, hirq⟩ | hq := hq
      · simp [cpuCycle, hq, hnmi, hirq]
      · simp only [cpuCycle, hq]
    rw [hfetch, opcodeCycle_of_busRead h]
    simp only [if_neg hjam]

/-! ## The lines (R423, R424) -/

/-- No stage before stage (e) moves the NMI edge detector, reset or not. -/
theorem nmiPrev_before_stageE {s u : State}
    (h : stageD (stalls (supplied s)) (beforeCpu (cycleIn s) (supplied s)) = .next u) :
    u.cpu.nmiPrev = s.cpu.nmiPrev := by
  have hsupplied : (supplied s).cpu.nmiPrev = s.cpu.nmiPrev := by
    obtain h | h := supplied_cases s
    · rw [h]
      rfl
    · rw [h]
  obtain ⟨rfl, -⟩ | ⟨hcycle, -⟩ := stageD_cases h
  · exact hsupplied
  · obtain ⟨-, -, -, -, -, -, -, -, -, -, -, -, -, -, hprev, -⟩ := cpuCycle_keeps hcycle
    exact hprev.trans hsupplied

/-- Settles O38: stage (e) latches the lines, and stage (f) moves none of them. -/
theorem linesLatched : Obligations.LinesLatched := by
  intro s t h
  obtain ⟨u, hstage, rfl⟩ := step_eq_next h
  obtain ⟨hirq, hnmi⟩ := lines_afterCpu u
  refine ⟨hirq.symm, hnmi.symm, fun hline hprev => ?_⟩
  have hrises : nmiLine u = true := hline
  simp [nmiPrev_before_stageE hstage, hprev, hrises]

/-! ## The stolen cycle (R443) -/

theorem step_of_stolen {s : State} (hadm : admitted (supplied s) = true) (hstall : stalls (supplied s) = true) :
    step s = .next (afterCpu (beforeCpu (cycleIn s) (supplied s))) := by
  simp [step, masterCycle, hadm, stageD, hstall]

/-- What the host's supply leaves alone of what the CPU's cycle could change, reset or not. -/
theorem supplied_memory (s : State) :
    (supplied s).ram = s.ram ∧ (supplied s).color = s.color ∧ (supplied s).draws = s.draws := by
  obtain h | h := supplied_cases s <;> rw [h] <;> exact ⟨rfl, rfl, rfl⟩

/-- Settles O6: the stages around the CPU's touch the CPU in the latches of stage (e) alone. -/
theorem stalledIdle : Obligations.StalledIdle := by
  intro s hadm hstall
  obtain ⟨hirq, hnmi⟩ := lines_afterCpu (beforeCpu (cycleIn s) (supplied s))
  have hprev : (supplied s).cpu.nmiPrev = s.cpu.nmiPrev :=
    nmiPrev_before_stageE (u := beforeCpu (cycleIn s) (supplied s)) (if_pos (by simp [hstall]))
  obtain ⟨hram, hcolor, hdraws⟩ := supplied_memory s
  refine ⟨_, step_of_stolen hadm hstall, rfl, ?_, hram, hcolor, rfl, rfl, (supplied_fixed s).2, hdraws⟩
  rw [hirq, hnmi, ← hprev]
  rfl

end Sys2Proof.Machine
end

section
/-! The VIC's registers on the bus (R430, R433 to R436, R445). -/

namespace Sys2Proof.Machine

/-! ## The registers -/

/-- The registers that are no plain cell (R430; log entry 23). -/
def vicSpecial : List Nat := [0x11, 0x12, 0x13, 0x14, 0x19, 0x1A, 0x1E, 0x1F]

theorem vicRead_cell (v : Vic) {off : Nat} (h : off < 0x2F) (hcell : off ∉ vicSpecial) :
    vicRead v off = Cells.read v.cells off ||| vicOnes off := by
  simp only [vicSpecial, List.mem_cons, List.not_mem_nil, or_false, not_or] at hcell
  by_cases h16 : off = 0x16
  · subst h16
    rfl
  by_cases h18 : off = 0x18
  · subst h18
    rfl
  by_cases h20 : off < 0x20
  · simp [vicRead, vicOnes, vicCell, hcell, h16, h18, h20, Nat.not_le.2 h20]
  · simp [vicRead, vicOnes, vicCell, hcell, h16, h18, h20, h, Nat.not_lt.1 h20]

theorem vicAfterRead_of_ne (v : Vic) {off : Nat} (h1e : off ≠ 0x1E) (h1f : off ≠ 0x1F) : vicAfterRead v off = v := by
  simp [vicAfterRead, h1e, h1f]

theorem vicWrite_cell (v : Vic) {off : Nat} (h : off < 0x2F) (hcell : off ∉ vicSpecial) (x : Byte) :
    vicWrite v off x = { v with cells := Cells.write v.cells off x } := by
  simp only [vicSpecial, List.mem_cons, List.not_mem_nil, or_false, not_or] at hcell
  simp [vicWrite, hcell, h]

theorem vic_unused (v : Vic) {off : Nat} (h : 0x2F ≤ off) (x : Byte) :
    vicRead v off = 0xFF ∧ vicAfterRead v off = v ∧ vicWrite v off x = v := by
  have hne : off ≠ 0x11 ∧ off ≠ 0x12 ∧ off ≠ 0x13 ∧ off ≠ 0x14 ∧ off ≠ 0x16 ∧ off ≠ 0x18 ∧ off ≠ 0x19 ∧ off ≠ 0x1A
      ∧ off ≠ 0x1E ∧ off ≠ 0x1F ∧ ¬ off < 0x20 := by omega
  simp [vicRead, vicAfterRead, vicWrite, hne, Nat.not_lt.2 h]

/-! ## Their values in numbers and bits -/

theorem toNat_append_eq {n m : Nat} (x : BitVec n) (y : BitVec m) : (x ++ y).toNat = x.toNat * 2 ^ m + y.toNat := by
  rw [BitVec.toNat_append, Nat.shiftLeft_eq, Nat.mul_comm, Nat.two_pow_add_eq_or_of_lt y.isLt]

/-- $11: the raster line's bit 8 above the cell's lower bits (R430). -/
theorem vicRead_control (v : Vic) :
    ((vicRead v 0x11).getLsbD 7 = true ↔ 256 ≤ v.line.toNat)
      ∧ (vicRead v 0x11).extractLsb' 0 7 = (Cells.read v.cells 0x11).extractLsb' 0 7 := by
  have hvalue : vicRead v 0x11 = v.line.extractLsb' 8 1 ++ (Cells.read v.cells 0x11).extractLsb' 0 7 := rfl
  have hmsb : v.line.getLsbD 8 = decide (256 ≤ v.line.toNat) := BitVec.msb_eq_decide v.line
  rw [hvalue]
  refine ⟨?_, BitVec.extractLsb'_append_eq_right⟩
  rw [BitVec.getLsbD_append, ← decide_eq_true_iff (p := 256 ≤ v.line.toNat), ← hmsb]
  simp

/-- The raster compare value after a store to $11: a new bit 8 (R430). -/
theorem cmp_high_toNat (cmp : BitVec 9) (x : Byte) :
    (x.extractLsb' 7 1 ++ cmp.extractLsb' 0 8).toNat = cmp.toNat % 256 + x.toNat / 128 * 256 := by
  have hx := x.isLt
  rw [toNat_append_eq, BitVec.extractLsb'_toNat, BitVec.extractLsb'_toNat, Nat.shiftRight_eq_div_pow]
  omega

/-- After a store to $12: a new low byte. -/
theorem cmp_low_toNat (cmp : BitVec 9) (x : Byte) :
    (cmp.extractLsb' 8 1 ++ x).toNat = cmp.toNat / 256 * 256 + x.toNat := by
  have hcmp := cmp.isLt
  rw [toNat_append_eq, BitVec.extractLsb'_toNat, Nat.shiftRight_eq_div_pow]
  omega

/-- $19: the latch, three ones, and the interrupt output (R434, R435); storing it back clears the latch. -/
theorem vicRead_latch (v : Vic) :
    (vicRead v 0x19).extractLsb' 0 4 = v.irqLatch ∧ (vicRead v 0x19).extractLsb' 4 3 = 7
      ∧ (vicRead v 0x19).getLsbD 7 = vicIrq v ∧ v.irqLatch &&& ~~~((vicRead v 0x19).extractLsb' 0 4) = 0 := by
  have hvalue : vicRead v 0x19 = (if vicIrq v then 0x80 else 0x00) ||| 0x70 ||| v.irqLatch.zeroExtend 8 := rfl
  rw [hvalue]
  generalize vicIrq v = b
  generalize v.irqLatch = l
  revert b l
  decide

/-- $1A: the enable below four ones (R434). -/
theorem vicRead_enable (v : Vic) :
    (vicRead v 0x1A).extractLsb' 0 4 = v.irqEnable ∧ (vicRead v 0x1A).extractLsb' 4 4 = 15 := by
  have hvalue : vicRead v 0x1A = 0xF0 ||| v.irqEnable.zeroExtend 8 := rfl
  rw [hvalue]
  generalize v.irqEnable = e
  revert e
  decide

/-! ## On the bus -/

section Bus

variable {s : State} {a : Word} {off : Nat}

theorem ioTarget_vic {n : Nat} (h : n < 0xD400) : ioTarget n = ⟨.vic, n % 64⟩ := if_pos h

theorem busRead_vic (hs : IoMapped s) (h : 0xD000 ≤ a.toNat) (h' : a.toNat < 0xD400) (hoff : off = a.toNat % 64) :
    busRead a s = .next (vicRead s.vic off, { s with vic := vicAfterRead s.vic off }) := by
  subst hoff
  exact (busRead_busWrite_io hs h (by omega) (ioTarget_vic h') 0).1

theorem busWrite_vic (hs : IoMapped s) (h : 0xD000 ≤ a.toNat) (h' : a.toNat < 0xD400) (hoff : off = a.toNat % 64)
    (x : Byte) : busWrite a x s = .next { s with vic := vicWrite s.vic off x } := by
  subst hoff
  exact (busRead_busWrite_io hs h (by omega) (ioTarget_vic h') x).2

end Bus

/-- Settles O51, register by register. -/
theorem vicRegisters : Obligations.VicRegisters := by
  intro s a v off hs h h' hoff
  have hread {u : State} (hu : IoMapped u) := busRead_vic hu h h' hoff
  have hwrite := busWrite_vic hs h h' hoff v
  have hcells {k : Nat} (hne : k ≠ off) := Cells.read_write_other s.vic.cells v hne
  have hsame : StorageOk s → Cells.read (Cells.write s.vic.cells off v) off = v :=
    fun ⟨_, _, _, _, _, hvic⟩ => Cells.read_write_same hvic off v
  refine ⟨fun hlt hcell => ?cell, ?r11, ?r12, ?r13, ?r14, ?r19, ?r1A, ?r1E, ?r1F, fun hunused => ?unused⟩
  case cell =>
    have hplain {u : State} (hu : IoMapped u) :
        busRead a u = .next (Cells.read u.vic.cells off ||| vicOnes off, u) := by
      rw [hread hu, vicRead_cell _ hlt hcell,
        vicAfterRead_of_ne _ (fun h => hcell (by simp [h])) fun h => hcell (by simp [h])]
    rw [vicWrite_cell _ hlt hcell] at hwrite
    refine ⟨hplain hs, fun hok => ⟨_, hwrite, (hplain ?_).trans ?_, rfl, fun k => hcells⟩⟩
    · exact hs
    · dsimp only
      rw [hsame hok]
  case unused =>
    obtain ⟨hvalue, hafter, hstore⟩ := vic_unused s.vic hunused v
    rw [hread hs, hwrite, hvalue, hafter, hstore]
    exact ⟨rfl, rfl⟩
  all_goals
    intro hreg
    subst hreg
  case r11 =>
    exact ⟨⟨_, hread hs, vicRead_control s.vic⟩, fun hok =>
      ⟨_, hwrite, rfl, cmp_high_toNat s.vic.cmp v, hsame hok, fun k => hcells⟩⟩
  case r12 =>
    exact ⟨⟨_, hread hs, BitVec.extractLsb'_toNat ..⟩, _, hwrite, rfl, cmp_low_toNat s.vic.cmp v⟩
  case r13 | r14 | r1E | r1F => exact ⟨hread hs, hwrite⟩
  case r19 => exact ⟨hwrite, _, hread hs, vicRead_latch s.vic⟩
  case r1A => exact ⟨hwrite, _, hread hs, vicRead_enable s.vic⟩

end Sys2Proof.Machine
end

section
/-! Which master cycles are stolen (R439, R441, R442), and how many of a PAL line's (R542). -/

namespace Sys2Proof.Machine

/-! ## The stall request -/

/-- A cycle's place in a sprite's window is a difference modulo the line (R441). -/
theorem winPlace_eq_emod (p : Params) (v : Vic) (n : Nat) (h : 0 < p.cpl) :
    (winPlace p v n : Int) = ((v.cyc : Int) - (spriteWinStart p n : Int)) % (p.cpl : Int) := by
  have hlt := Nat.mod_lt (spriteWinStart p n) h
  unfold winPlace
  rw [Int.natCast_emod, Int.natCast_add, Int.natCast_sub hlt.le, Int.natCast_emod, ← Int.add_sub_assoc,
    Int.sub_emod, Int.add_emod_right, ← Int.sub_emod, Int.sub_emod_emod]

theorem anySprite_iff (f : Nat → Sprite → Bool) (p : Sprites) :
    anySprite f p = true ↔ ∃ n, n < 8 ∧ f n (spriteAt p n) = true := by
  constructor
  · intro h
    simp only [anySprite, Bool.or_eq_true, or_assoc] at h
    obtain h | h | h | h | h | h | h | h := h
    exacts [⟨0, by decide, h⟩, ⟨1, by decide, h⟩, ⟨2, by decide, h⟩, ⟨3, by decide, h⟩, ⟨4, by decide, h⟩,
      ⟨5, by decide, h⟩, ⟨6, by decide, h⟩, ⟨7, by decide, h⟩]
  · rintro ⟨n, hn, h⟩
    simp only [anySprite, Bool.or_eq_true, or_assoc]
    interval_cases n <;> simp only [spriteAt] at h <;> simp only [h, true_or, or_true]

theorem vicStall_iff (p : Params) (v : Vic) :
    vicStall p v = true ↔ (badline p v = true ∧ p.badBaFirst ≤ v.cyc ∧ v.cyc ≤ p.badBaLast)
      ∨ ∃ n, n < 8 ∧ (spriteAt v.sprites n).dma = true ∧ winPlace p v n < p.spriteWinLen := by
  simp [vicStall, anySprite_iff, and_assoc]

/-! ## With the PAL parameters (R542) -/

/-- The place of cycle `c` of a PAL line in sprite `n`'s window. -/
def palPlace (c n : Nat) : Nat := (c + 63 - (54 + 2 * n) % 63) % 63

theorem winPlace_pal (v : Vic) (c : Nat) {n : Nat} (hn : n < 8) :
    winPlace palParams { v with cyc := c } n = palPlace c n := by
  have hstart : spriteWinStart palParams n = 54 + 2 * n := by interval_cases n <;> rfl
  have hcpl : palParams.cpl = 63 := rfl
  simp only [winPlace, palPlace, hstart, hcpl]
  omega

/-- The windows of sprites `m` to `n` run into one another, and make one window of `3 + 2k` cycles. -/
theorem windows_joined {m n : Nat} (hmn : m ≤ n) (c : Nat) :
    (∃ j, m ≤ j ∧ j ≤ n ∧ palPlace c j < 5) ↔ palPlace c m < 3 + 2 * (n - m + 1) := by
  unfold palPlace
  constructor
  · rintro ⟨j, hmj, hjn, hj⟩
    omega
  · intro h
    obtain hn' | hn' := Nat.lt_or_ge (2 * (n - m)) ((c + 63 - (54 + 2 * m) % 63) % 63)
    · exact ⟨n, hmn, le_rfl, by omega⟩
    · exact ⟨m + (c + 63 - (54 + 2 * m) % 63) % 63 / 2, by omega, by omega, by omega⟩

/-- Without a badline, sprites `m` to `n` together steal one window of the line. -/
theorem vicStall_sprites {v : Vic} {m n : Nat} (hmn : m ≤ n) (hn : n < 8)
    (hdma : ∀ j, j < 8 → (spriteAt v.sprites j).dma = decide (m ≤ j ∧ j ≤ n)) (hbad : badline palParams v = false)
    (c : Nat) :
    vicStall palParams { v with cyc := c } = decide (palPlace c m < 3 + 2 * (n - m + 1)) := by
  have hbad' : badline palParams { v with cyc := c } = false := hbad
  rw [Bool.eq_iff_iff, vicStall_iff, decide_eq_true_iff, ← windows_joined hmn, hbad']
  constructor
  · rintro (⟨h, -⟩ | ⟨j, hj, hon, hplace⟩)
    · simp at h
    · have hj' : m ≤ j ∧ j ≤ n := of_decide_eq_true ((hdma j hj).symm.trans hon)
      exact ⟨j, hj'.1, hj'.2, winPlace_pal v c hj ▸ hplace⟩
  · rintro ⟨j, hmj, hjn, hplace⟩
    have hj : j < 8 := by omega
    exact .inr ⟨j, hj, (hdma j hj).trans (decide_eq_true ⟨hmj, hjn⟩), (winPlace_pal v c hj).symm ▸ hplace⟩

/-- With no sprite on, the badline window alone is stolen. -/
theorem vicStall_noSprite {v : Vic} (hdma : ∀ n, n < 8 → (spriteAt v.sprites n).dma = false) (c : Nat) :
    vicStall palParams { v with cyc := c } = (badline palParams v && decide (11 ≤ c ∧ c ≤ 53)) := by
  have hbad : badline palParams { v with cyc := c } = badline palParams v := rfl
  rw [Bool.eq_iff_iff, vicStall_iff, hbad, Bool.and_eq_true, decide_eq_true_iff]
  refine or_iff_left ?_
  rintro ⟨n, hn, hon, -⟩
  exact absurd (hon.symm.trans (hdma n hn)) (by simp)

/-- A window of `len` cycles, wherever it starts, has that many cycles of the line. -/
theorem window_count : ∀ m < 8, ∀ n < 8, m ≤ n →
    ((List.range 63).filter fun c => decide (palPlace c m < 3 + 2 * (n - m + 1))).length = 3 + 2 * (n - m + 1) := by
  decide

/-- Settles O54: the stall is a badline's or a sprite's, and the windows of sprites on together join. -/
theorem stallCounts : Obligations.StallCounts := by
  refine ⟨⟨winPlace_eq_emod, vicStall_iff, fun v n hn hdma hbad c _ => ?_⟩, fun v => ⟨fun hdma hbad c => ?_,
    fun hdma hbad c => ?_, fun m n hmn hn hdma hbad => ?_⟩⟩
  · rw [vicStall_sprites le_rfl hn (fun j hj => ?_) hbad c, Nat.sub_self]
    · rfl
    · rw [hdma j hj, decide_eq_decide]
      omega
  · rw [vicStall_noSprite hdma, hbad, Bool.true_and]
  · rw [vicStall_noSprite hdma, hbad, Bool.false_and]
  · simp only [vicStall_sprites hmn hn hdma hbad]
    exact window_count m (by omega) n hn hmn

end Sys2Proof.Machine
end

section
/-! The timers of a CIA (R465 to R471): one stage (b), and one period. -/

namespace Sys2Proof.Machine

/-! ## One timer's step (R467) -/

section Step

variable (counter latch : Word) (cr : Byte) (counts : Bool)

theorem timerStep_underflow :
    (timerStep counter latch cr counts).underflow = (counts && decide (counter.toNat ≤ 1)) := by
  unfold timerStep
  split_ifs <;> simp [*]

theorem timerStep_counter :
    (timerStep counter latch cr counts).counter
      = if counts && decide (counter.toNat ≤ 1) then (if cr.getLsbD 3 then 0 else latch)
        else if counts then counter - 1 else counter := by
  by_cases h : counter.toNat ≤ 1
  · cases counts <;> cases h3 : cr.getLsbD 3 <;> simp only [timerStep, h, h3] <;> rfl
  · cases counts <;> simp [timerStep, h]

theorem timerStep_cr :
    (timerStep counter latch cr counts).cr
      = if (counts && decide (counter.toNat ≤ 1)) && cr.getLsbD 3 then cr &&& 0xFE else cr := by
  by_cases h : counter.toNat ≤ 1
  · cases counts <;> cases h3 : cr.getLsbD 3 <;> simp only [timerStep, h, h3] <;> rfl
  · cases counts <;> simp [timerStep, h]

end Step

/-! ## One stage (b) -/

section Stage

variable (inp : CiaIn) (c : Cia)

/-- Timer A underflows in this stage (R467). -/
def timerAUnder : Bool := timerACounts c inp && decide (c.taCounter.toNat ≤ 1)

/-- Timer B underflows in this stage, counting the underflow of timer A in it (R467, R468). -/
def timerBUnder : Bool := timerBCounts c inp (timerAUnder inp c) && decide (c.tbCounter.toNat ≤ 1)

/-- Both timers' steps, timer A's underflow feeding timer B, and the flags they raise. -/
theorem ciaStep_eq :
    ciaStep inp c = { c with
      taCounter := (timerStep c.taCounter c.taLatch c.cra (timerACounts c inp)).counter
      cra := (timerStep c.taCounter c.taLatch c.cra (timerACounts c inp)).cr
      tbCounter := (timerStep c.tbCounter c.tbLatch c.crb (timerBCounts c inp (timerAUnder inp c))).counter
      crb := (timerStep c.tbCounter c.tbLatch c.crb (timerBCounts c inp (timerAUnder inp c))).cr
      icrData := c.icrData
        ||| (inp.events ++ BitVec.ofBool (timerBUnder inp c) ++ BitVec.ofBool (timerAUnder inp c)) } := by
  rw [timerBUnder, ← timerStep_underflow c.tbCounter c.tbLatch c.crb, timerAUnder,
    ← timerStep_underflow c.taCounter c.taLatch c.cra]
  rfl

/-- Timer B's four sources (R466). -/
theorem timerBCounts_eq (aUnder : Bool) :
    timerBCounts c inp aUnder = (c.crb.getLsbD 0 && (match c.crb.getLsbD 6, c.crb.getLsbD 5 with
      | false, false => true
      | false, true => inp.cntEdge
      | true, false => aUnder
      | true, true => aUnder && inp.cntLevel)) := by
  unfold timerBCounts
  cases c.crb.getLsbD 6 <;> cases c.crb.getLsbD 5 <;> simp

end Stage

/-- The flags that a stage raises, bit by bit: the underflows' below the host's events (R471). -/
theorem raised_getLsbD (events : BitVec 3) (b a : Bool) (n : Nat) :
    (events ++ BitVec.ofBool b ++ BitVec.ofBool a).getLsbD n
      = if n = 0 then a else if n = 1 then b else events.getLsbD (n - 2) := by
  rw [BitVec.getLsbD_append, BitVec.getLsbD_append]
  match n with
  | 0 => simp
  | 1 => simp
  | n + 2 => simp

/-- Settles O55: each timer's step, timer B's source in the statement's terms, and the flags bit by bit. -/
theorem timerRule : Obligations.TimerRule := by
  refine ⟨fun inp s => ⟨rfl, rfl⟩, ?_⟩
  intro inp c d aRuns aUnder bRuns bUnder hd hruns hunder hbruns hbunder
  obtain rfl : aRuns = timerACounts c inp := hruns
  obtain rfl : aUnder = timerAUnder inp c := hunder
  obtain rfl : bRuns = timerBCounts c inp (timerAUnder inp c) := hbruns.trans (timerBCounts_eq inp c _).symm
  obtain rfl : bUnder = timerBUnder inp c := hbunder
  rw [ciaStep_eq] at hd
  have hbits (n : Nat) : d.icrData.getLsbD n = (c.icrData.getLsbD n ||
      if n = 0 then timerAUnder inp c else if n = 1 then timerBUnder inp c else inp.events.getLsbD (n - 2)) := by
    rw [hd, ← raised_getLsbD]
    exact BitVec.getLsbD_or
  refine ⟨?_, ?_, hbits 0, hbits 1, fun n _ => hbits (n + 2), ?_⟩
  · rw [hd]
    exact ⟨timerStep_counter .., timerStep_cr ..⟩
  · rw [hd]
    exact ⟨timerStep_counter .., timerStep_cr ..⟩
  · rw [hd]

/-! ## A period (R467, R470) -/

section Period

variable {c : Cia}

/-- Timer B stopped and the host quiet, a stage is timer A's step and its flag. -/
theorem ciaStep_quiet (hb : c.crb.getLsbD 0 = false) :
    ciaStep ciaQuiet c = { c with
      taCounter := (timerStep c.taCounter c.taLatch c.cra (timerACounts c ciaQuiet)).counter
      cra := (timerStep c.taCounter c.taLatch c.cra (timerACounts c ciaQuiet)).cr
      icrData := c.icrData ||| if timerAUnder ciaQuiet c then 1 else 0 } := by
  have hcounts (aUnder : Bool) : timerBCounts c ciaQuiet aUnder = false := by
    simp only [timerBCounts, hb, Bool.false_and]
  have hflags : ciaQuiet.events ++ BitVec.ofBool false ++ BitVec.ofBool (timerAUnder ciaQuiet c)
      = if timerAUnder ciaQuiet c then 1 else 0 := by
    cases timerAUnder ciaQuiet c <;> rfl
  rw [ciaStep_eq, timerBUnder, hcounts, Bool.false_and, hflags]
  rfl

/-- Timer A runs and counts cycles (R465). -/
structure CountsCycles (c : Cia) : Prop where
  start : c.cra.getLsbD 0 = true
  cycles : c.cra.getLsbD 5 = false
  timerB : c.crb.getLsbD 0 = false

theorem CountsCycles.timerACounts (h : CountsCycles c) : timerACounts c ciaQuiet = true := by
  rw [Machine.timerACounts, h.start, h.cycles]
  rfl

theorem CountsCycles.withCounter (h : CountsCycles c) (n : Word) : CountsCycles { c with taCounter := n } :=
  ⟨h.start, h.cycles, h.timerB⟩

theorem ciaStep_counting (h : CountsCycles c) (hcount : 1 < c.taCounter.toNat) :
    ciaStep ciaQuiet c = { c with taCounter := c.taCounter - 1 } := by
  rw [ciaStep_quiet h.timerB]
  simp [timerAUnder, timerStep, h.timerACounts, Nat.not_le.2 hcount]

/-- The last cycle of a continuous period. -/
theorem ciaStep_reloads (h : CountsCycles c) (hcount : c.taCounter.toNat ≤ 1) (hcont : c.cra.getLsbD 3 = false) :
    ciaStep ciaQuiet c = { c with taCounter := c.taLatch, icrData := c.icrData ||| 1 } := by
  rw [ciaStep_quiet h.timerB]
  simp only [timerAUnder, timerStep, h.timerACounts, hcount, hcont]
  rfl

/-- The last cycle of a one-shot. -/
theorem ciaStep_halts (h : CountsCycles c) (hcount : c.taCounter.toNat ≤ 1) (hshot : c.cra.getLsbD 3 = true) :
    ciaStep ciaQuiet c = { c with taCounter := 0, cra := c.cra &&& 0xFE, icrData := c.icrData ||| 1 } := by
  rw [ciaStep_quiet h.timerB]
  simp only [timerAUnder, timerStep, h.timerACounts, hcount, hshot]
  rfl

theorem ciaStep_stopped (ha : c.cra.getLsbD 0 = false) (hb : c.crb.getLsbD 0 = false) : ciaStep ciaQuiet c = c := by
  have hcounts : timerACounts c ciaQuiet = false := by rw [timerACounts, ha, Bool.false_and]
  rw [ciaStep_quiet hb]
  simp [timerAUnder, timerStep, hcounts]

/-- Before its last cycle a period only counts down. -/
theorem iterate_ciaStep_counting (h : CountsCycles c) (hload : c.taCounter = c.taLatch) {k : Nat}
    (hk : k < c.taLatch.toNat) :
    (ciaStep ciaQuiet)^[k] c = { c with taCounter := c.taLatch - BitVec.ofNat 16 k } := by
  induction k with
  | zero =>
    have hzero : c.taLatch - BitVec.ofNat 16 0 = c.taCounter := by rw [hload]; exact BitVec.sub_zero _
    rw [hzero]
    rfl
  | succ k ih =>
    have hcount : 1 < (c.taLatch - BitVec.ofNat 16 k).toNat := by bv_omega
    have hnext : c.taLatch - BitVec.ofNat 16 k - 1 = c.taLatch - BitVec.ofNat 16 (k + 1) := by bv_omega
    rw [Function.iterate_succ_apply', ih (by omega), ← hnext]
    exact ciaStep_counting (h.withCounter _) hcount

/-- The last cycle of the period finds the counter at 1. -/
theorem iterate_ciaStep_period (h : CountsCycles c) (hload : c.taCounter = c.taLatch) (hlatch : 1 ≤ c.taLatch.toNat) :
    (ciaStep ciaQuiet)^[c.taLatch.toNat] c = ciaStep ciaQuiet { c with taCounter := 1 } := by
  obtain ⟨n, hn⟩ : ∃ n, c.taLatch.toNat = n + 1 := ⟨c.taLatch.toNat - 1, by omega⟩
  have hone : c.taLatch - BitVec.ofNat 16 n = 1 := by bv_omega
  rw [hn, Function.iterate_succ_apply', iterate_ciaStep_counting h hload (by omega), hone]

end Period

/-- Settles O56: counting down to 1, then the underflow, and a stopped timer stays. -/
theorem timerPeriod : Obligations.TimerPeriod := by
  intro c k hstart hcycles hload hlatch hflags hb
  have h : CountsCycles c := ⟨hstart, hcycles, hb⟩
  have hlast := h.withCounter 1
  have hflag : c.icrData ||| 1 = 1 := by rw [hflags]; rfl
  refine ⟨fun hk => ?_, fun hcont => ?_, fun hshot hk => ?_⟩
  · rw [iterate_ciaStep_counting h hload hk]
    exact ⟨by bv_omega, hflags⟩
  · rw [iterate_ciaStep_period h hload hlatch, ciaStep_reloads hlast le_rfl hcont, hflag, ← hload]
  · obtain ⟨j, rfl⟩ := Nat.exists_eq_add_of_le' hk
    have hstopped : (c.cra &&& 0xFE).getLsbD 0 = false := by simp
    rw [Function.iterate_add_apply, iterate_ciaStep_period h hload hlatch, ciaStep_halts hlast le_rfl hshot, hflag]
    refine Function.iterate_fixed (ciaStep_stopped ?_ ?_) j
    · exact hstopped
    · exact hb

end Sys2Proof.Machine
end

section
/-! The registers of the CIAs on the bus (R460 to R464, R469, R472 to R476), and the pins of their ports (R461). -/

namespace Sys2Proof.Machine

/-! ## On the bus -/

section Bus

variable {s : State} {a : Word}

theorem ioTarget_cia1 {n : Nat} (h : 0xDC00 ≤ n) (h' : n < 0xDD00) : ioTarget n = ⟨.cia1, n % 16⟩ := by
  have hlow : ¬ n < 0xD400 ∧ ¬ n < 0xD800 ∧ ¬ n < 0xDC00 := by omega
  simp [ioTarget, hlow, h']

theorem ioTarget_cia2 {n : Nat} (h : 0xDD00 ≤ n) (h' : n < 0xDE00) : ioTarget n = ⟨.cia2, n % 16⟩ := by
  have hlow : ¬ n < 0xD400 ∧ ¬ n < 0xD800 ∧ ¬ n < 0xDC00 ∧ ¬ n < 0xDD00 := by omega
  simp [ioTarget, hlow, h']

/-- The accesses to one of the two CIAs: `c` is its state, `put` the machine with another, and `pinsA` and `pinsB` are
what its ports read. -/
structure CiaAt (s : State) (a : Word) (c : Cia) (put : Cia → State) (pinsA pinsB : Byte) : Prop where
  put_self : put c = s
  reads {off : Nat} (hoff : off = a.toNat % 16) : busRead a s = .next (ciaRead c pinsA pinsB (nextDraw s) off,
    { put (ciaAfterRead c off) with draws := if ciaReadsDraw off then s.draws + 1 else s.draws })
  writes {off : Nat} (hoff : off = a.toNat % 16) (v : Byte) : busWrite a v s = .next (put (ciaWrite c off v))

theorem ciaAt_cia1 (hs : IoMapped s) (h : 0xDC00 ≤ a.toNat) (h' : a.toNat < 0xDD00) :
    CiaAt s a s.cia1 (fun d => { s with cia1 := d }) (driveA s.cia1 &&& cia1ExtA s.host s.cia1)
      (driveB s.cia1 &&& cia1ExtB s.host s.cia1) := by
  have haccess (v : Byte) := busRead_busWrite_io hs (by omega) (by omega) (ioTarget_cia1 h h') v
  exact ⟨rfl, fun hoff => hoff ▸ (haccess 0).1, fun hoff v => hoff ▸ (haccess v).2⟩

theorem ciaAt_cia2 (hs : IoMapped s) (h : 0xDD00 ≤ a.toNat) (h' : a.toNat < 0xDE00) :
    CiaAt s a s.cia2 (fun d => { s with cia2 := d }) (driveA s.cia2 &&& s.host.cia2PA)
      (driveB s.cia2 &&& s.host.cia2PB) := by
  have haccess (v : Byte) := busRead_busWrite_io hs (by omega) (by omega) (ioTarget_cia2 h h') v
  exact ⟨rfl, fun hoff => hoff ▸ (haccess 0).1, fun hoff v => hoff ▸ (haccess v).2⟩

variable {c : Cia} {put : Cia → State} {pinsA pinsB : Byte} {off : Nat}

/-- A read of any register but the ICR and those of R476 changes nothing. -/
theorem CiaAt.reads_plain (h : CiaAt s a c put pinsA pinsB) (hoff : off = a.toNat % 16)
    (hplain : off < 8 ∨ off = 0xE ∨ off = 0xF) :
    busRead a s = .next (ciaRead c pinsA pinsB (nextDraw s) off, s) := by
  have hdraw : ciaReadsDraw off = false := by
    simp only [ciaReadsDraw, Bool.and_eq_false_iff, decide_eq_false_iff_not]
    omega
  have hafter : ciaAfterRead c off = c := if_neg (by omega)
  rw [h.reads hoff, hdraw, hafter, h.put_self]
  rfl

/-- A read of a register of R476 takes a draw. -/
theorem CiaAt.reads_draw (h : CiaAt s a c put pinsA pinsB) (hoff : off = a.toNat % 16) (hlow : 8 ≤ off)
    (hhigh : off ≤ 0xC) : busRead a s = .next (nextDraw s, drawn s) := by
  have hvalue : ciaRead c pinsA pinsB (nextDraw s) off = nextDraw s := by
    clear hoff
    interval_cases off <;> rfl
  have hafter : ciaAfterRead c off = c := if_neg (by omega)
  rw [h.reads hoff, hvalue, hafter, h.put_self, ciaReadsDraw, decide_eq_true hlow, decide_eq_true hhigh]
  rfl

end Bus

/-! ## The interrupt control registers (R473, R474) -/

/-- The ICR as read: the flags, two zeros, and the interrupt output. -/
theorem icrValue_bits (ir : Bool) (data : BitVec 5) :
    ((if ir then 0x80 else 0x00) ||| data.zeroExtend 8 : Byte).extractLsb' 0 5 = data
      ∧ ((if ir then 0x80 else 0x00) ||| data.zeroExtend 8 : Byte).extractLsb' 5 2 = 0
      ∧ ((if ir then 0x80 else 0x00) ||| data.zeroExtend 8 : Byte).getLsbD 7 = ir := by
  revert ir data
  decide

/-- Settles O57: the read's value bit by bit, and the store, at either CIA. -/
theorem icrRegisters : Obligations.IcrRegisters := by
  intro s a v hs hoff
  refine ⟨fun h h' => ?_, fun h h' => ?_⟩
  · have hcia := ciaAt_cia1 hs h h'
    exact ⟨⟨_, hcia.reads hoff.symm, icrValue_bits _ _⟩, hcia.writes hoff.symm v⟩
  · have hcia := ciaAt_cia2 hs h h'
    exact ⟨⟨_, hcia.reads hoff.symm, icrValue_bits _ _⟩, hcia.writes hoff.symm v⟩

/-! ## The control registers (R469) -/

/-- A control register without its LOAD bit. -/
theorem withoutLoad_getLsbD (x : Byte) {n : Nat} (hn : n < 8) :
    (x &&& 0xEF).getLsbD n = (x.getLsbD n && n != 4) := by
  have hmask : (0xEF : Byte).getLsbD n = (n != 4) := by interval_cases n <;> rfl
  rw [BitVec.getLsbD_and, hmask]

theorem loadOnControl_eq (counter latch : Word) (cr v : Byte) :
    loadOnControl counter latch cr v
      = if v.getLsbD 4 = true ∨ (v.getLsbD 0 = true ∧ cr.getLsbD 0 = false ∧ counter = 0) then latch
        else counter := by
  unfold loadOnControl
  by_cases hload : v.getLsbD 4 = true
  · rw [if_pos hload, if_pos (.inl hload)]
  · rw [if_neg hload]
    exact if_congr (by rw [or_iff_right hload]; simp [and_assoc]) rfl rfl

/-- Settles O58, register by register. -/
theorem timerRegisters : Obligations.TimerRegisters := by
  intro s a v c put off hs hoff hat
  obtain ⟨pinsA, pinsB, hcia⟩ : ∃ pinsA pinsB, CiaAt s a c put pinsA pinsB := by
    obtain ⟨h, h', rfl, rfl⟩ | ⟨h, h', rfl, rfl⟩ := hat
    · exact ⟨_, _, ciaAt_cia1 hs h h'⟩
    · exact ⟨_, _, ciaAt_cia2 hs h h'⟩
  have hplain := hcia.reads_plain hoff
  have hwrite := hcia.writes hoff v
  refine ⟨?pra, ?prb, ?r2, ?r3, ?r4, ?r5, ?r6, ?r7, fun h8 hC => ?stored, ?cra, ?crb⟩
  case stored =>
    refine ⟨hcia.reads_draw hoff h8 hC, hwrite.trans ?_⟩
    clear hoff hplain hwrite
    interval_cases off <;> rfl
  all_goals
    intro hreg
    subst hreg
  case pra | prb => exact hwrite
  case r2 | r3 | r4 | r5 | r6 | r7 => exact ⟨hplain (by decide), hwrite⟩
  case cra | crb =>
    exact ⟨⟨_, hplain (by decide), fun n => withoutLoad_getLsbD _⟩, _, hwrite, rfl, fun n => withoutLoad_getLsbD _,
      loadOnControl_eq _ _ _ _⟩

/-! ## The port pins (R461) -/

theorem byteOfBits_getLsbD (f : Nat → Bool) {n : Nat} (hn : n < 8) : (byteOfBits f).getLsbD n = f n := by
  have hlow (b : Bool) (m : Nat) : (b.toNat + 2 * m).testBit 0 = b := by
    cases b <;> simp [Nat.testBit_zero, Nat.add_mod]
  have hhigh (b : Bool) (m k : Nat) : (b.toNat + 2 * m).testBit (k + 1) = m.testBit k := by
    have hdiv : (b.toNat + 2 * m) / 2 = m := by
      have hb := b.toNat_lt
      omega
    rw [Nat.testBit_add_one, hdiv]
  have hnest : (f 0).toNat + 2 * (f 1).toNat + 4 * (f 2).toNat + 8 * (f 3).toNat + 16 * (f 4).toNat + 32 * (f 5).toNat
      + 64 * (f 6).toNat + 128 * (f 7).toNat = (f 0).toNat + 2 * ((f 1).toNat + 2 * ((f 2).toNat + 2 * ((f 3).toNat
      + 2 * ((f 4).toNat + 2 * ((f 5).toNat + 2 * ((f 6).toNat + 2 * ((f 7).toNat + 2 * 0))))))) := by ring
  rw [byteOfBits, hnest, BitVec.getLsbD_ofNat, decide_eq_true hn, Bool.true_and]
  interval_cases n <;> simp only [hhigh, hlow]

theorem drive_getLsbD (c : Cia) (n : Fin 8) :
    (driveA c).getLsbD n = (c.pra.getLsbD n || !c.ddra.getLsbD n)
      ∧ (driveB c).getLsbD n = (c.prb.getLsbD n || !c.ddrb.getLsbD n) := by
  simp [driveA, driveB]

theorem cia1ExtA_getLsbD (h : Held) (c : Cia) (col : Fin 8) :
    (cia1ExtA h c).getLsbD col = true ↔ h.joy2.getLsbD col = false
      ∧ ∀ row : Fin 8, (col, row) ∈ h.keys → (driveB c).getLsbD row = true ∧ h.joy1.getLsbD row = false := by
  rw [cia1ExtA, byteOfBits_getLsbD _ col.isLt]
  simp [joyDown, keyDown, ← imp_iff_not_or]

theorem cia1ExtB_getLsbD (h : Held) (c : Cia) (row : Fin 8) :
    (cia1ExtB h c).getLsbD row = true ↔ h.joy1.getLsbD row = false
      ∧ ∀ col : Fin 8, (col, row) ∈ h.keys → (driveA c).getLsbD col = true ∧ h.joy2.getLsbD col = false := by
  rw [cia1ExtB, byteOfBits_getLsbD _ row.isLt]
  simp [joyDown, keyDown, ← imp_iff_not_or]

/-- Settles O59: a pin of CIA1 is what the CIA drives and what the keyboard and the joysticks leave. -/
theorem portPinsRead : Obligations.PortPins := by
  intro s a drA drB hs hA hB
  have hdrA (n : Fin 8) : drA n = (driveA s.cia1).getLsbD n := (hA n).trans (drive_getLsbD s.cia1 n).1.symm
  have hdrB (n : Fin 8) : drB n = (driveB s.cia1).getLsbD n := (hB n).trans (drive_getLsbD s.cia1 n).2.symm
  simp only [hdrA, hdrB]
  refine ⟨fun h h' hoff => ⟨_, (ciaAt_cia1 hs h h').reads_plain hoff.symm (by decide), fun col => ?_⟩,
    fun h h' hoff => ⟨_, (ciaAt_cia1 hs h h').reads_plain hoff.symm (by decide), fun row => ?_⟩,
    fun h h' hoff => (ciaAt_cia2 hs h h').reads_plain hoff.symm (by decide),
    fun h h' hoff => (ciaAt_cia2 hs h h').reads_plain hoff.symm (by decide)⟩
  · change (driveA s.cia1 &&& cia1ExtA s.host s.cia1).getLsbD col = true ↔ _
    rw [BitVec.getLsbD_and, Bool.and_eq_true, cia1ExtA_getLsbD]
  · change (driveB s.cia1 &&& cia1ExtB s.host s.cia1).getLsbD row = true ↔ _
    rw [BitVec.getLsbD_and, Bool.and_eq_true, cia1ExtB_getLsbD]

end Sys2Proof.Machine
end

section
/-! The load (R503, R504): what storing images leaves in a storage, and the machine made of images that fit. -/

namespace Sys2Proof.Machine

/-! ## Storing images -/

variable {w : Nat}

/-- Storing an image leaves every cell outside it alone. -/
theorem Cells.read_writeAll_outside (vs : List (BitVec w)) (m : Cells w) {base a : Nat}
    (ha : ¬ (base ≤ a ∧ a < base + vs.length)) : Cells.read (Cells.writeAll m base vs) a = Cells.read m a := by
  induction vs generalizing m base with
  | nil => rfl
  | cons v rest ih =>
    rw [List.length_cons] at ha
    rw [Cells.writeAll, ih _ (by omega), Cells.read_write_other m v (by omega)]

/-- A cell of a stored image holds the image's byte. -/
theorem Cells.read_writeAll_inside {size : Nat} (vs : List (BitVec w)) {m : Cells w} (h : Cells.wf size m = true)
    {base k : Nat} (hb : base + vs.length ≤ size) (hk : k < vs.length) :
    Cells.read (Cells.writeAll m base vs) (base + k) = vs.getD k 0 := by
  induction vs generalizing m base k with
  | nil => exact absurd hk (Nat.not_lt_zero k)
  | cons v rest ih =>
    rw [List.length_cons] at hb hk
    rw [Cells.writeAll]
    cases k with
    | zero => rw [Cells.read_writeAll_outside rest _ (by omega), Nat.add_zero, Cells.read_write_same h,
        List.getD_cons_zero]
    | succ j =>
      have hrest := ih (Cells.wf_write h (a := base) v (by omega)) (base := base + 1) (k := j) (by omega) (by omega)
      rwa [Nat.add_assoc, Nat.add_comm 1 j] at hrest

/-- An image stored alone from 0 on, as the load stores a ROM's, reads back byte for byte. -/
theorem Cells.read_writeAll_nil (vs : List (BitVec w)) {k : Nat} (hk : k < vs.length) :
    Cells.read (Cells.writeAll [] 0 vs) k = vs.getD k 0 := by
  have hread := Cells.read_writeAll_inside vs (Cells.wf_nil vs.length) (base := 0) (Nat.zero_add _).le hk
  rwa [Nat.zero_add] at hread

/-- A storage with images stored in the order given, as `loadMachine` makes RAM (`loadMachine_eq_machine_iff`). -/
def Cells.storeImages (m : Cells w) (images : List (Nat × List (BitVec w))) : Cells w :=
  images.foldl (fun m r => Cells.writeAll m r.1 r.2) m

theorem Cells.storeImages_append (m : Cells w) (xs ys : List (Nat × List (BitVec w))) :
    Cells.storeImages m (xs ++ ys) = Cells.storeImages (Cells.storeImages m xs) ys := List.foldl_append

theorem Cells.storeImages_cons (m : Cells w) (r : Nat × List (BitVec w)) (images : List (Nat × List (BitVec w))) :
    Cells.storeImages m (r :: images) = Cells.storeImages (Cells.writeAll m r.1 r.2) images := rfl

/-- Storing images that fit keeps the canonical form. -/
theorem Cells.wf_storeImages {size : Nat} (images : List (Nat × List (BitVec w))) {m : Cells w}
    (h : Cells.wf size m = true) (hfit : ∀ r ∈ images, r.1 + r.2.length ≤ size) :
    Cells.wf size (Cells.storeImages m images) = true := by
  induction images generalizing m with
  | nil => exact h
  | cons r rest ih =>
    rw [List.forall_mem_cons] at hfit
    exact ih (Cells.wf_writeAll r.2 h hfit.1) hfit.2

/-- Storing images leaves every cell outside all of them alone. -/
theorem Cells.read_storeImages_outside (images : List (Nat × List (BitVec w))) (m : Cells w) {a : Nat}
    (ha : ∀ r ∈ images, ¬ (r.1 ≤ a ∧ a < r.1 + r.2.length)) :
    Cells.read (Cells.storeImages m images) a = Cells.read m a := by
  induction images generalizing m with
  | nil => rfl
  | cons r rest ih =>
    rw [List.forall_mem_cons] at ha
    rw [Cells.storeImages_cons, ih _ ha.2, Cells.read_writeAll_outside r.2 m ha.1]

/-- A cell holds the byte of the last image that covers it. -/
theorem Cells.read_storeImages_last {size : Nat} {m : Cells w} (h : Cells.wf size m = true)
    {before after : List (Nat × List (BitVec w))} {r : Nat × List (BitVec w)} {k : Nat}
    (hfit : ∀ q ∈ before ++ r :: after, q.1 + q.2.length ≤ size) (hk : k < r.2.length)
    (hafter : ∀ q ∈ after, ¬ (q.1 ≤ r.1 + k ∧ r.1 + k < q.1 + q.2.length)) :
    Cells.read (Cells.storeImages m (before ++ r :: after)) (r.1 + k) = r.2.getD k 0 := by
  rw [List.forall_mem_append, List.forall_mem_cons] at hfit
  obtain ⟨hbefore, hr, -⟩ := hfit
  rw [Cells.storeImages_append, Cells.storeImages_cons, Cells.read_storeImages_outside after _ hafter,
    Cells.read_writeAll_inside r.2 (Cells.wf_storeImages before h hbefore) hr hk]

/-! ## The machine a load makes -/

/-- The images a load accepts (R503). -/
structure Images.Fit (im : Images) : Prop where
  basic : im.basic.length = 8192
  kernal : im.kernal.length = 8192
  char : im.char.length = 4096
  ram : ∀ r ∈ im.ram, r.1 + r.2.length ≤ 65536

/-- The machine made of images that fit (R504). -/
def loadedState (p : Params) (im : Images) : State :=
  { State.powerOn with
    params := p
    romBasic := Cells.writeAll [] 0 im.basic
    romKernal := Cells.writeAll [] 0 im.kernal
    romChar := Cells.writeAll [] 0 im.char
    ram := Cells.storeImages [] im.ram }

theorem ramFits_all (images : List (Nat × List Byte)) :
    images.all ramFits = true ↔ ∀ r ∈ images, r.1 + r.2.length ≤ 65536 := by
  simp [ramFits]

/-- What a load answers: the machine made of the images exactly when they fit. -/
theorem loadMachine_eq_machine_iff (p : Params) (im : Images) (s : State) :
    loadMachine p im = .machine s ↔ im.Fit ∧ s = loadedState p im := by
  unfold loadMachine
  split_ifs with hbasic hkernal hchar hram
  · exact ⟨nofun, fun h => absurd h.1.basic hbasic⟩
  · exact ⟨nofun, fun h => absurd h.1.kernal hkernal⟩
  · exact ⟨nofun, fun h => absurd h.1.char hchar⟩
  · exact ⟨nofun, fun h => absurd ((ramFits_all im.ram).mpr h.1.ram) (by simp [hram])⟩
  · have hfit : im.Fit :=
      ⟨not_not.mp hbasic, not_not.mp hkernal, not_not.mp hchar, (ramFits_all im.ram).mp (by simpa using hram)⟩
    exact ⟨fun h => ⟨hfit, (Loaded.machine.inj h).symm⟩, fun h => h.2 ▸ rfl⟩

/-- A load is refused exactly when the images do not fit. -/
theorem loadMachine_error_iff (p : Params) (im : Images) : (∃ e, loadMachine p im = .error e) ↔ ¬ im.Fit := by
  cases hload : loadMachine p im with
  | machine s => exact ⟨nofun, fun h => absurd ((loadMachine_eq_machine_iff p im s).mp hload).1 h⟩
  | error e =>
    refine ⟨fun _ hfit => ?_, fun _ => ⟨e, rfl⟩⟩
    have hmade := (loadMachine_eq_machine_iff p im _).mpr ⟨hfit, rfl⟩
    exact Loaded.noConfusion (hload.symm.trans hmade)

theorem Images.not_fit_iff (im : Images) :
    ¬ im.Fit ↔ im.basic.length ≠ 8192 ∨ im.kernal.length ≠ 8192 ∨ im.char.length ≠ 4096
      ∨ ∃ r ∈ im.ram, 65536 < r.1 + r.2.length := by
  have hfit : im.Fit ↔ im.basic.length = 8192 ∧ im.kernal.length = 8192 ∧ im.char.length = 4096
      ∧ ∀ r ∈ im.ram, r.1 + r.2.length ≤ 65536 :=
    ⟨fun ⟨hb, hk, hc, hr⟩ => ⟨hb, hk, hc, hr⟩, fun ⟨hb, hk, hc, hr⟩ => ⟨hb, hk, hc, hr⟩⟩
  simp only [hfit, not_and_or, not_forall, not_le, exists_prop]

theorem loadedState_storageOk (p : Params) {im : Images} (hfit : im.Fit) : StorageOk (loadedState p im) :=
  ⟨Cells.wf_storeImages im.ram (Cells.wf_nil _) hfit.ram, rfl,
    Cells.wf_writeAll im.basic (Cells.wf_nil _) (by rw [hfit.basic]),
    Cells.wf_writeAll im.kernal (Cells.wf_nil _) (by rw [hfit.kernal]),
    Cells.wf_writeAll im.char (Cells.wf_nil _) (by rw [hfit.char]), rfl⟩

/-- Settles O60: the images a load refuses, and the machine made of those that fit. -/
theorem loadRule : Obligations.LoadRule := by
  intro p im
  refine ⟨(loadMachine_error_iff p im).trans im.not_fit_iff, fun s hs => ?_⟩
  obtain ⟨hfit, rfl⟩ := (loadMachine_eq_machine_iff p im s).mp hs
  refine ⟨loadedState_storageOk p hfit, rfl, rfl, rfl, rfl, rfl, rfl, rfl,
    fun k hk => Cells.read_writeAll_nil im.basic (hfit.basic ▸ hk),
    fun k hk => Cells.read_writeAll_nil im.kernal (hfit.kernal ▸ hk),
    fun k hk => Cells.read_writeAll_nil im.char (hfit.char ▸ hk),
    fun before after r k him hk hafter => ?_, fun a ha => Cells.read_storeImages_outside im.ram [] ha⟩
  have hram := hfit.ram
  rw [him] at hram
  change Cells.read (Cells.storeImages [] im.ram) _ = _
  rw [him]
  exact Cells.read_storeImages_last (Cells.wf_nil _) hram hk hafter

end Sys2Proof.Machine
end
